-- ==== Sys2Proof/Word.lean ====
section
/-! DEFINITION. The word types of the block and their plainest arithmetic (spec 00_scope R10, R11; 30_encoding R90). -/

namespace Sys2Proof

/-- A byte of the serial stream. -/
abbrev Byte := BitVec 8

/-- A FIFO word (`W = 32`, D2) or a 32-bit response word (R90). -/
abbrev Word := BitVec 32

/-- A 64-bit command word `CMD` (R90). -/
abbrev Cmd := BitVec 64

/-- The int32 −1, the "no data" response (R11, R181). -/
def minusOne : Word := 0xFFFFFFFF#32

/-- `zext_32(b)` of a byte (R10). -/
def zextByte (b : Byte) : Word := b.setWidth 32

end Sys2Proof
end

