-- ==== Sys2Proof/Config.lean ====
section
/-! DEFINITION. What an implementation fixes (00_scope R7), and the free values of the spec's draws (R12 `draw`):
opaque constants with no body, so that a claim holds whatever they are. -/

namespace Sys2Proof

/-- Lane cycles per serial bit (R8). -/
def oversample : Nat := 8

/-- Lanes per coprocessor instance (R7, D4). -/
def nlanes : Nat := 4

/-- The pin-field value that means UNSET (R7, D6). -/
def unsetCode : BitVec 8 := 0xFF#8

/-- The baud rate of a plain `start` (R7, R104). -/
def defaultBaud : Word := 115200#32

/-- The divisor arithmetic `DIV_ARITH` (R7, R121). -/
inductive DivArith where
  | exactTrunc
  | float32Trunc
  deriving DecidableEq, Repr, Inhabited

/-- One outcome of an RX overrun (R212). -/
inductive OverrunKind where
  | dropNewest
  | dropOldest
  | corrupt
  deriving DecidableEq, Repr, Inhabited

/-- The parameter `OVERRUN_POLICY` (R7, R212): `any` draws one of the three at each overrun. -/
inductive OverrunPolicy where
  | any
  | always (k : OverrunKind)
  deriving DecidableEq, Repr, Inhabited

/-- The join setting of a lane's FIFOs (R30, R33). -/
inductive FJoin where
  | none
  | rx
  | tx
  deriving DecidableEq, Repr, Inhabited

/-- A lane's clock divider field `CLKDIV` (R30). -/
structure ClkDiv where
  int  : BitVec 16
  frac : BitVec 8
  deriving DecidableEq, Repr, Inhabited

/-- The launch premises: the parameters of R7 that a launch names (R276). No step changes them. -/
structure Launch where
  /-- `SYSCLK_HZ` (D12). -/
  sysclk        : BitVec 32
  /-- `FIFO_DEPTH`, words per unjoined FIFO (D3). -/
  fifoDepth     : Nat
  /-- `NINST` (D5). -/
  ninst         : Nat
  /-- `NPINS` (D6). -/
  npins         : Nat
  /-- `PROG_MEM_SIZE` (D7). -/
  progMemSize   : Nat
  /-- `RX_PROG_LEN` (D7). -/
  rxProgLen     : Nat
  /-- `TX_PROG_LEN` (D7). -/
  txProgLen     : Nat
  /-- `DIV_ARITH` (D9). -/
  divArith      : DivArith
  /-- `OVERRUN_POLICY` (D16). -/
  overrunPolicy : OverrunPolicy
  /-- `PM_USED`: the (instance, slot) pairs other drivers use (D8). -/
  pmUsed        : List (Nat × Nat)
  deriving DecidableEq, Repr

namespace Config

/-- `SYSCLK_HZ` of the launch from `State.reset`: OPEN with no default (R7), so it has no number here (log 1). -/
opaque sysclkHz : BitVec 32

/-- `RX_PROG_LEN` of the launch from `State.reset`: OPEN with no default (R7; log 1). -/
opaque rxProgLen : Nat

/-- `TX_PROG_LEN` of the launch from `State.reset`: OPEN with no default (R7; log 1). -/
opaque txProgLen : Nat

/-- The allocator's choice among the fitting offsets, for the n-th draw (R61; log 4). -/
opaque freeOffset : Nat → Nat

/-- The `CLKDIV` drawn for an out-of-range divisor, for the n-th draw (R36; log 4). -/
opaque freeClkDiv : Nat → ClkDiv

/-- The byte an RX lane pushes for a bad, glitched or mistimed frame, for the n-th draw (R211; log 4). -/
opaque freeByte : Nat → BitVec 8

/-- Which overrun outcome happens under the policy `any`, for the n-th draw (R212; log 4). -/
opaque freeOverrun : Nat → OverrunKind

/-- The k-th word of a corrupted RX FIFO, for the n-th draw (R212; log 4). -/
opaque freeWord : Nat → Nat → BitVec 32

/-- What an unowned FIFO of key k would read as: any value (R37, U14; log 5). -/
opaque unownedFifo : Nat → List (BitVec 32)

/-- What an unowned `FJOIN` of key k would read as: any value (R37, U14; log 5). -/
opaque unownedJoin : Nat → FJoin

/-- The launch premises of `State.reset`: R7's defaults where it gives one (log 1). -/
def launch : Launch where
  sysclk        := sysclkHz
  fifoDepth     := 4
  ninst         := 2
  npins         := 30
  progMemSize   := 32
  rxProgLen     := rxProgLen
  txProgLen     := txProgLen
  divArith      := .exactTrunc
  overrunPolicy := .any
  pmUsed        := []

end Config

end Sys2Proof
end

