-- ==== Sys2Proof/Syntax.lean ====
section
/-! DEFINITION. The commands of the block, one constructor per row of spec/opcode_table.json (30_encoding R92, R93, R97). -/

namespace Sys2Proof

/-- The value of a pin field: a GPIO number, or UNSET (R22, R93). -/
inductive Pin where
  | unset
  | gpio (n : Nat)
  deriving DecidableEq, Repr, Inhabited

/-- The channel `GETCHAN` selects: `DIR = 0` is RX, `DIR = 1` is TX (R93). -/
inductive Dir where
  | rx
  | tx
  deriving DecidableEq, Repr, Inhabited

/-- The thirteen commands (R97). The constructor of END is `endCmd`, since `end` is a word of Lean. -/
inductive Instr where
  /-- CONFIG: `TXP`, `RXP`, `RXL`, `TXL`, `INS` (format K). -/
  | config (txPin rxPin : Pin) (rxLane txLane inst : Nat)
  /-- START: `FRAME`, `BAUD` (format S). -/
  | start (frame : BitVec 16) (baud : Word)
  /-- STOP (format Z). -/
  | stop
  /-- END (format Z). -/
  | endCmd
  /-- AVAILABLE (format Z). -/
  | available
  /-- PEEK (format Z). -/
  | peek
  /-- READ (format Z). -/
  | read
  /-- WRITE: `BYTE` (format B). -/
  | write (byte : Byte)
  /-- FLUSH (format Z). -/
  | flush
  /-- READY (format Z). -/
  | ready
  /-- DIVCALC: `BAUD` (format D). -/
  | divcalc (baud : Word)
  /-- GETDIV (format Z). -/
  | getdiv
  /-- GETCHAN: `DIR` (format C). -/
  | getchan (dir : Dir)
  deriving DecidableEq, Repr, Inhabited

end Sys2Proof
end

