-- ==== Sys2Proof/WellFormed.lean ====
section
/-! DEFINITION. Which commands have an encoding: every operand fits its field (30_encoding R92, R93). A value that fits its
field but lies outside its legal range is well-formed here; the operation faults on it (R102). -/

namespace Sys2Proof

/-- A pin number fits the 8-bit field and is not the code of UNSET (R93). -/
def Pin.wellFormed : Pin → Bool
  | .unset => true
  | .gpio n => decide (n < 255)

/-- The command has an encoding. -/
def Instr.wellFormed : Instr → Bool
  | .config txPin rxPin rxLane txLane inst =>
    txPin.wellFormed && rxPin.wellFormed && decide (rxLane < 16) && decide (txLane < 16) && decide (inst < 16)
  | .start _ _ => true
  | .stop => true
  | .endCmd => true
  | .available => true
  | .peek => true
  | .read => true
  | .write _ => true
  | .flush => true
  | .ready => true
  | .divcalc _ => true
  | .getdiv => true
  | .getchan _ => true

end Sys2Proof
end

