-- ==== Sys2Proof/Decode.lean ====
section
/-! DEFINITION. Decoding and encoding of command words (30_encoding R90 to R105). A command word is a value of 64 bits with no
byte order (R65, D36), so the decoder takes the word whole. -/

namespace Sys2Proof

/-- The opcodes of the map (R97), one per row. -/
inductive Op where
  | config
  | start
  | stop
  | endCmd
  | available
  | peek
  | read
  | write
  | flush
  | ready
  | divcalc
  | getdiv
  | getchan
  deriving DecidableEq, Repr, Inhabited

/-- The rows of the opcode map, in its order (R97). -/
def Op.all : List Op :=
  [.config, .start, .stop, .endCmd, .available, .peek, .read, .write, .flush, .ready, .divcalc, .getdiv, .getchan]

/-- The `OPC` byte of a row (R97). -/
def Op.opc : Op → BitVec 8
  | .config => 0x01#8
  | .start => 0x02#8
  | .stop => 0x03#8
  | .endCmd => 0x04#8
  | .available => 0x10#8
  | .peek => 0x11#8
  | .read => 0x12#8
  | .write => 0x13#8
  | .flush => 0x14#8
  | .ready => 0x15#8
  | .divcalc => 0x20#8
  | .getdiv => 0x21#8
  | .getchan => 0x22#8

/-- The `mask` column (R97): `OPC` and every reserved bit of the row's format. -/
def Op.mask : Op → Cmd
  | .config => 0xFFFFFFFFF0000000#64
  | .start => 0xFFFF000000000000#64
  | .stop => 0xFFFFFFFFFFFFFFFF#64
  | .endCmd => 0xFFFFFFFFFFFFFFFF#64
  | .available => 0xFFFFFFFFFFFFFFFF#64
  | .peek => 0xFFFFFFFFFFFFFFFF#64
  | .read => 0xFFFFFFFFFFFFFFFF#64
  | .write => 0xFFFFFFFFFFFFFF00#64
  | .flush => 0xFFFFFFFFFFFFFFFF#64
  | .ready => 0xFFFFFFFFFFFFFFFF#64
  | .divcalc => 0xFFFFFFFF00000000#64
  | .getdiv => 0xFFFFFFFFFFFFFFFF#64
  | .getchan => 0xFFFFFFFFFFFFFFFE#64

/-- The `match` column (R97): the opcode byte above a zero operand area. -/
def Op.matchWord (op : Op) : Cmd :=
  op.opc ++ 0#56

/-- The bits of the operand area, `CMD[55:0]` (R91, R98). -/
def operandArea : Cmd := 0x00FFFFFFFFFFFFFF#64

/-- `CMD[63:56]` (R91). -/
def opcOf (c : Cmd) : BitVec 8 := c.extractLsb' 56 8

/-- The row with this opcode, if the map has one (R97, R100). -/
def Op.ofOpc (opc : BitVec 8) : Option Op :=
  Op.all.find? (fun op => op.opc == opc)

/-- Some reserved bit of the row's format is set (R98, R99). -/
def Op.reservedSet (op : Op) (c : Cmd) : Bool :=
  (c &&& op.mask &&& operandArea) != 0#64

/-- A pin field, with `0xFF` read as UNSET (R93). -/
def pinOfField (v : BitVec 8) : Pin :=
  if v = unsetCode then .unset else .gpio v.toNat

/-- The 8-bit field of a pin, with UNSET as `0xFF` (R93, R96). -/
def pinField : Pin → BitVec 8
  | .unset => unsetCode
  | .gpio n => BitVec.ofNat 8 n

/-- The `DIR` bit read as a channel (R93). -/
def dirOfField (v : BitVec 1) : Dir :=
  if v = 0#1 then .rx else .tx

/-- The `DIR` bit of a channel (R93). -/
def dirField : Dir → BitVec 1
  | .rx => 0#1
  | .tx => 1#1

/-- The command of a row with the operand fields of `c` (R92, R93). -/
def Op.operands (c : Cmd) : Op → Instr
  | .config =>
    .config (pinOfField (c.extractLsb' 0 8)) (pinOfField (c.extractLsb' 8 8))
      (c.extractLsb' 16 4).toNat (c.extractLsb' 20 4).toNat (c.extractLsb' 24 4).toNat
  | .start => .start (c.extractLsb' 32 16) (c.extractLsb' 0 32)
  | .stop => .stop
  | .endCmd => .endCmd
  | .available => .available
  | .peek => .peek
  | .read => .read
  | .write => .write (c.extractLsb' 0 8)
  | .flush => .flush
  | .ready => .ready
  | .divcalc => .divcalc (c.extractLsb' 0 32)
  | .getdiv => .getdiv
  | .getchan => .getchan (dirOfField (c.extractLsb' 0 1))

/-- Why a command word is no command (R98): `F_ILLEGAL_OP` (R100) or `F_RESERVED` (R99). -/
inductive DecodeError where
  | illegalOp
  | reserved
  deriving DecidableEq, Repr, Inhabited

/-- `decode(c)` of R98: the opcode check, then the reserved-bit check, then the operands. -/
def decode (c : Cmd) : Except DecodeError Instr :=
  match Op.ofOpc (opcOf c) with
  | none => .error .illegalOp
  | some op => if op.reservedSet c then .error .reserved else .ok (op.operands c)

/-- The row a command belongs to (R97). -/
def Instr.op : Instr → Op
  | .config _ _ _ _ _ => .config
  | .start _ _ => .start
  | .stop => .stop
  | .endCmd => .endCmd
  | .available => .available
  | .peek => .peek
  | .read => .read
  | .write _ => .write
  | .flush => .flush
  | .ready => .ready
  | .divcalc _ => .divcalc
  | .getdiv => .getdiv
  | .getchan _ => .getchan

/-- The operand area of a command, from the format tables of R92: `{res, INS, TXL, RXL, RXP, TXP}` and so on. -/
def operandBits : Instr → BitVec 56
  | .config txPin rxPin rxLane txLane inst =>
    0#28 ++ BitVec.ofNat 4 inst ++ BitVec.ofNat 4 txLane ++ BitVec.ofNat 4 rxLane ++ pinField rxPin ++ pinField txPin
  | .start frame baud => 0#8 ++ frame ++ baud
  | .stop => 0#56
  | .endCmd => 0#56
  | .available => 0#56
  | .peek => 0#56
  | .read => 0#56
  | .write byte => 0#48 ++ byte
  | .flush => 0#56
  | .ready => 0#56
  | .divcalc baud => 0#24 ++ baud
  | .getdiv => 0#56
  | .getchan dir => 0#55 ++ dirField dir

/-- The command word of a command (R91, R92): `OPC` above the operand area. -/
def encode (i : Instr) : Cmd :=
  i.op.opc ++ operandBits i

/-- The command the decoder reads from a word numbered as spec/opcode_table.json numbers it: one 64-bit word, bit 0 its least
significant bit, every bit above `nbits` zero. -/
def decodeTableWord (nbits w : Nat) : Option Instr :=
  match decode (BitVec.ofNat 64 (w % 2 ^ nbits)) with
  | .ok i => some i
  | .error _ => none

end Sys2Proof
end

