-- ==== Sys2Proof/Machine/Table.lean ====
section
/-! DEFINITION. Sparse data by index in one canonical form: the spec's index spaces (20_memory R60) are lists of (key, value)
pairs with keys strictly rising, and a key that is not listed reads as `none`, which is `unowned` for a fabric field (R37) and
"free" for a program memory slot (R35). -/

namespace Sys2Proof.Machine

/-- Values by key. -/
abbrev Table (α : Type) := List (Nat × α)

/-- The value at a key; `none` where nothing is listed. -/
def Table.get {α : Type} : Table α → Nat → Option α
  | [], _ => none
  | (k, v) :: t, key => if k = key then some v else Table.get t key

/-- Write the value at a key, keeping the keys strictly rising. -/
def Table.set {α : Type} : Table α → Nat → α → Table α
  | [], key, val => [(key, val)]
  | (k, v) :: t, key, val =>
    if key < k then (key, val) :: (k, v) :: t
    else if key = k then (key, val) :: t
    else (k, v) :: Table.set t key val

/-- Every key of the table is above `lo`. -/
def Table.above {α : Type} (lo : Nat) : Table α → Bool
  | [] => true
  | (k, _) :: t => decide (lo < k) && Table.above k t

/-- The canonical form: keys strictly rising, so equal tables are equal lists. -/
def Table.wf {α : Type} : Table α → Bool
  | [] => true
  | (k, _) :: t => Table.above k t

/-- The key of a pair of indices, such as (instance, lane): Cantor's pairing, one number for each pair. -/
def key (i j : Nat) : Nat := Nat.pair i j

end Sys2Proof.Machine
end

