-- ==== Sys2Proof/Machine/State.lean ====
section
/-! DEFINITION. The state of the block and of the coprocessor fabric it writes (10_state R20 to R42), as plain data, and its
reset value (70_reset_and_hazards R260). -/

namespace Sys2Proof.Machine

/-- `DivResult` (R22): a divisor in range, as 16 integer and 8 fraction bits, or the exact rational that is out of range, as a
quotient of naturals in lowest terms (log 17). -/
inductive DivResult where
  | inRange (int : BitVec 16) (frac : BitVec 8)
  | outOfRange (num den : Nat)
  deriving DecidableEq, Repr

/-- A channel record (R22, R23). -/
structure Channel where
  /-- The GPIO the channel uses, or UNSET. -/
  pin     : Pin
  /-- The lane index within the instance. -/
  lane    : Nat
  /-- The slot its program was loaded at; none until configured. -/
  offset  : Option Nat
  /-- The divisor applied to the lane; none until configured. -/
  divisor : Option DivResult
  /-- The lane has been configured and enabled by START. -/
  enabled : Bool
  deriving DecidableEq, Repr

/-- The two opaque bit-stream programs (R5, R35). -/
inductive Program where
  | rx
  | tx
  deriving DecidableEq, Repr, Inhabited

/-- The fault codes 1 to 12 of R232, in that order, each with what the "recorded" column names. -/
inductive FaultCode where
  /-- `F_ILLEGAL_OP`: the opcode is not in the map; raised by any command word (R100). Safe. -/
  | illegalOp (cmd : Cmd)
  /-- `F_RESERVED`: a reserved bit is set; raised by any valid opcode (R99). Safe. -/
  | reserved (cmd : Cmd)
  /-- `F_CFG_RANGE`: an operand outside its legal range; raised by CONFIG (R140). Safe. -/
  | cfgRange (cmd : Cmd)
  /-- `F_CFG_AFTER_START`: raised by CONFIG after a successful START (R140). Safe. -/
  | cfgAfterStart (cmd : Cmd)
  /-- `F_RESTART`: raised by START after a successful START (R141). Safe. -/
  | restart (cmd : Cmd)
  /-- `F_BAUD_ZERO`: raised by START and DIVCALC (R122). Safe. -/
  | baudZero (cmd : Cmd)
  /-- `F_PIN_CONFLICT`: both pins set and equal; raised by START (R141). Safe. -/
  | pinConflict (pin : Nat)
  /-- `F_LANE_CONFLICT`: both pins set and the lanes equal; raised by START (R141). Safe. -/
  | laneConflict (lane : Nat)
  /-- `F_PROG_NO_SPACE`: a program does not fit; raised by START through the program load (R61). Safe. -/
  | progNoSpace (prog : Program)
  /-- `F_RX_UNCONFIGURED`: raised by AVAILABLE, PEEK and READ (R182 to R184). Safe. -/
  | rxUnconfigured (cmd : Cmd)
  /-- `F_TX_UNCONFIGURED`: raised by WRITE (R185). Safe. -/
  | txUnconfigured (cmd : Cmd)
  /-- `F_NOT_STARTED`: raised by GETDIV (R124). Safe. -/
  | notStarted (cmd : Cmd)
  deriving DecidableEq, Repr

/-- A shift direction field (R30). -/
inductive ShiftDir where
  | left
  | right
  deriving DecidableEq, Repr, Inhabited

/-- A pin direction (R32). -/
inductive PinDir where
  | input
  | output
  deriving DecidableEq, Repr, Inhabited

/-- A pin function the block selects (R31): the pin is routed to coprocessor instance `i`. -/
inductive FuncSel where
  | coproc (i : Nat)
  deriving DecidableEq, Repr

/-- A pull setting the block makes (R31). -/
inductive Pull where
  | up
  deriving DecidableEq, Repr

/-- What a used program memory slot holds (R35, R62): instruction `idx` of a program relocated to `offset`, or an instruction
of another driver (`PM_USED`). The instruction's own bits are opaque (R5, R61; log 6). -/
inductive Slot where
  | code (prog : Program) (offset idx : Nat)
  | foreign
  deriving DecidableEq, Repr

/-- The lane configuration record `LC[i][l]` (R30); `none` is `unowned` (R37). -/
structure LaneCfg where
  en          : Option Bool
  pc          : Option Nat
  clkdiv      : Option ClkDiv
  inBase      : Option Nat
  jmpPin      : Option Nat
  inShiftdir  : Option ShiftDir
  autopush    : Option Bool
  pushThresh  : Option Nat
  outBase     : Option Nat
  outCount    : Option Nat
  sidesetBase : Option Nat
  outShiftdir : Option ShiftDir
  autopull    : Option Bool
  pullThresh  : Option Nat
  fjoin       : Option FJoin
  deriving DecidableEq, Repr

/-- A lane record no field of which the block has written (R37). -/
def LaneCfg.unowned : LaneCfg where
  en          := none
  pc          := none
  clkdiv      := none
  inBase      := none
  jmpPin      := none
  inShiftdir  := none
  autopush    := none
  pushThresh  := none
  outBase     := none
  outCount    := none
  sidesetBase := none
  outShiftdir := none
  autopull    := none
  pullThresh  := none
  fjoin       := none

/-- The coprocessor fabric state (R30 to R35). Keys: `key i l` for a lane of an instance, `p` for a pin, `key i p` for a pin
seen from an instance, `key i o` for a program memory slot. -/
structure Fabric where
  /-- `LC[i][l]` (R30). -/
  lc      : Table LaneCfg
  /-- `FUNCSEL[p]` (R31). -/
  funcsel : Table FuncSel
  /-- `PULL[p]` (R31). -/
  pull    : Table Pull
  /-- `PINDIR[i][p]` (R32). -/
  pindir  : Table PinDir
  /-- `PINOUT[i][p]` (R32). -/
  pinout  : Table Bool
  /-- `RXF[i][l]`, oldest word first (R33). -/
  rxf     : Table (List Word)
  /-- `TXF[i][l]`, oldest word first (R33). -/
  txf     : Table (List Word)
  /-- `PM[i]` (R35); an unlisted slot is free. -/
  pm      : Table Slot
  deriving DecidableEq, Repr

/-- One turn of the environment's schedule (R74, R276): the host's, an RX lane push with the ten levels the line carried (bit 0
first in time) and the low bits of the word, or a TX lane pop. -/
inductive Turn where
  | host
  | rxPush (line : BitVec 10) (low : BitVec 24)
  | txPop
  deriving DecidableEq, Repr, Inhabited

/-- The machine's state: R22's record, the fabric, the line history, the command port, the launch premises and the
environment's choices. -/
structure State where
  /-- The coprocessor instance of both channels (R22, R28). -/
  inst    : Nat
  /-- The RX channel record (R22). -/
  rx      : Channel
  /-- The TX channel record (R22). -/
  tx      : Channel
  /-- A START has succeeded (R26). -/
  started : Bool
  /-- The divisor latched at START (R29). -/
  div     : Option DivResult
  /-- The peek cache; `none` is "empty" (R38). -/
  peek    : Option Byte
  /-- The sticky fault (R231). -/
  fault   : Option FaultCode
  /-- The coprocessor fabric (R30 to R35). -/
  fabric  : Fabric
  /-- `LINE_TX`, the bytes framed onto the TX pin, oldest first (R42). -/
  lineTx  : List Byte
  /-- The launch premises (R7, R276). -/
  launch  : Launch
  /-- The pending command word of the port (R90). -/
  port    : Option Cmd
  /-- The response word of the last command, if it has responded (R90). -/
  resp    : Option Word
  /-- The rest of the host command sequence (R276). -/
  cmds    : List Cmd
  /-- The environment's schedule (R74, R276; log 2). -/
  turns   : List Turn
  /-- The model's own count of draws taken (log 4). -/
  draws   : Nat
  deriving DecidableEq, Repr

/-- Why the machine has no next state. -/
inductive Fault where
  /-- Raised by `step` in the faulted state: it has no successor (R231, R237). Safe: no claim is proved of what follows. -/
  | faulted (c : FaultCode)
  deriving DecidableEq, Repr

/-- Why the machine gives an instruction no meaning. -/
inductive Refusal where
  /-- An instruction without a meaning; raised by `exec` only, and by no arm of it now. Safe. -/
  | notModelled (mnemonic : String)
  deriving DecidableEq, Repr

/-- A channel as construction leaves it, on a lane, with no pin (R260). -/
def Channel.fresh (lane : Nat) : Channel where
  pin     := .unset
  lane    := lane
  offset  := none
  divisor := none
  enabled := false

/-- Program memory at reset: every slot free, except the slots of `PM_USED` (R260). -/
def pmAtReset (used : List (Nat × Nat)) : Table Slot :=
  used.foldl (fun pm u => Table.set pm (key u.1 u.2) .foreign) []

/-- The fabric at reset: `unowned`, and program memory as R260 says. -/
def Fabric.atReset (used : List (Nat × Nat)) : Fabric where
  lc      := []
  funcsel := []
  pull    := []
  pindir  := []
  pinout  := []
  rxf     := []
  txf     := []
  pm      := pmAtReset used

/-- The reset state of a launch with the given premises (R260, R276). -/
def State.resetAt (l : Launch) : State where
  inst    := 0
  rx      := Channel.fresh 0
  tx      := Channel.fresh 1
  started := false
  div     := none
  peek    := none
  fault   := none
  fabric  := Fabric.atReset l.pmUsed
  lineTx  := []
  launch  := l
  port    := none
  resp    := none
  cmds    := []
  turns   := []
  draws   := 0

/-- The machine right after reset (R260), with R7's default parameters (log 1). -/
def State.reset : State := State.resetAt Config.launch

end Sys2Proof.Machine
end

