-- ==== Sys2Proof/Machine/Ops.lean ====
section
/-! DEFINITION. The named operations every meaning is written with: ending a command (00_scope R12, R13; 60_exceptions R231),
draws (R12), fabric writes (10_state R30 to R35), the two FIFOs (R33; 20_memory R69) and the program load (20_memory R61). -/

namespace Sys2Proof.Machine

/-- `respond v` (R12, R90): the command ends with response `v`, and the port takes the next one. -/
def State.respond (s : State) (v : Word) : State :=
  { s with port := none, resp := some v }

/-- `raise Fault(code)` (R12, R231), the one way a fault is taken: the fault is recorded for good, the command ends, and no
response word is produced. There is no other entry and no return (R236, R237). -/
def State.raise (s : State) (c : FaultCode) : State :=
  { s with fault := some c, port := none, resp := none }

/-- The code number of a fault (R232). -/
def FaultCode.number : FaultCode → Nat
  | .illegalOp _ => 1
  | .reserved _ => 2
  | .cfgRange _ => 3
  | .cfgAfterStart _ => 4
  | .restart _ => 5
  | .baudZero _ => 6
  | .pinConflict _ => 7
  | .laneConflict _ => 8
  | .progNoSpace _ => 9
  | .rxUnconfigured _ => 10
  | .txUnconfigured _ => 11
  | .notStarted _ => 12

/-- One draw has been taken (R12 `draw`; log 4). -/
def State.drawn (s : State) : State :=
  { s with draws := s.draws + 1 }

/-- One write of a lane configuration field (R30). -/
inductive LaneWrite where
  | en (v : Bool)
  | pc (v : Nat)
  | clkdiv (v : ClkDiv)
  | inBase (v : Nat)
  | jmpPin (v : Nat)
  | inShiftdir (v : ShiftDir)
  | autopush (v : Bool)
  | pushThresh (v : Nat)
  | outBase (v : Nat)
  | outCount (v : Nat)
  | sidesetBase (v : Nat)
  | outShiftdir (v : ShiftDir)
  | autopull (v : Bool)
  | pullThresh (v : Nat)
  | fjoin (v : FJoin)
  deriving DecidableEq, Repr

/-- One write of the block to the fabric (R30 to R35). -/
inductive FabricWrite where
  /-- `LC[i][l].field <- v`. -/
  | lane (i l : Nat) (w : LaneWrite)
  /-- `FUNCSEL[p] <- COPROC(i)`. -/
  | funcsel (p i : Nat)
  /-- `PULL[p] <- v`. -/
  | pull (p : Nat) (v : Pull)
  /-- `PINDIR[i][p] <- v`. -/
  | pindir (i p : Nat) (v : PinDir)
  /-- `PINOUT[i][p] <- v`. -/
  | pinout (i p : Nat) (v : Bool)
  /-- `RXF[i][l] <- []; TXF[i][l] <- []`. -/
  | clearFifos (i l : Nat)
  /-- One slot of a `MemWrite` (R61): slot `o` of `PM[i]` now holds `v`, and is used. -/
  | slot (i o : Nat) (v : Slot)
  deriving DecidableEq, Repr

/-- A lane record after a write of one field (R30). -/
def LaneCfg.write (c : LaneCfg) : LaneWrite → LaneCfg
  | .en v => { c with en := some v }
  | .pc v => { c with pc := some v }
  | .clkdiv v => { c with clkdiv := some v }
  | .inBase v => { c with inBase := some v }
  | .jmpPin v => { c with jmpPin := some v }
  | .inShiftdir v => { c with inShiftdir := some v }
  | .autopush v => { c with autopush := some v }
  | .pushThresh v => { c with pushThresh := some v }
  | .outBase v => { c with outBase := some v }
  | .outCount v => { c with outCount := some v }
  | .sidesetBase v => { c with sidesetBase := some v }
  | .outShiftdir v => { c with outShiftdir := some v }
  | .autopull v => { c with autopull := some v }
  | .pullThresh v => { c with pullThresh := some v }
  | .fjoin v => { c with fjoin := some v }

/-- `LC[i][l]` (R30). -/
def Fabric.laneCfg (f : Fabric) (i l : Nat) : LaneCfg :=
  (Table.get f.lc (key i l)).getD LaneCfg.unowned

/-- The fabric after one write. -/
def Fabric.apply (f : Fabric) : FabricWrite → Fabric
  | .lane i l w => { f with lc := Table.set f.lc (key i l) ((f.laneCfg i l).write w) }
  | .funcsel p i => { f with funcsel := Table.set f.funcsel p (.coproc i) }
  | .pull p v => { f with pull := Table.set f.pull p v }
  | .pindir i p v => { f with pindir := Table.set f.pindir (key i p) v }
  | .pinout i p v => { f with pinout := Table.set f.pinout (key i p) v }
  | .clearFifos i l => { f with rxf := Table.set f.rxf (key i l) [], txf := Table.set f.txf (key i l) [] }
  | .slot i o v => { f with pm := Table.set f.pm (key i o) v }

/-- The fabric after a list of writes, made in the order of the list. -/
def Fabric.applyAll (f : Fabric) (ws : List FabricWrite) : Fabric :=
  ws.foldl Fabric.apply f

/-- The state after a list of fabric writes. -/
def State.writes (s : State) (ws : List FabricWrite) : State :=
  { s with fabric := s.fabric.applyAll ws }

/-- The key of the RX lane of the block, `[inst][rx.lane]`. -/
def State.rxKey (s : State) : Nat := key s.inst s.rx.lane

/-- The key of the TX lane of the block, `[inst][tx.lane]`. -/
def State.txKey (s : State) : Nat := key s.inst s.tx.lane

/-- `RQ = RXF[inst][rx.lane]`, oldest word first; an unowned FIFO reads as any value (R37; log 5). -/
def State.rxq (s : State) : List Word :=
  (Table.get s.fabric.rxf s.rxKey).getD (Config.unownedFifo s.rxKey)

/-- `TQ = TXF[inst][tx.lane]`, oldest word first; an unowned FIFO reads as any value (R37; log 5). -/
def State.txq (s : State) : List Word :=
  (Table.get s.fabric.txf s.txKey).getD (Config.unownedFifo s.txKey)

/-- `RQ <- q`. -/
def State.setRxq (s : State) (q : List Word) : State :=
  { s with fabric := { s.fabric with rxf := Table.set s.fabric.rxf s.rxKey q } }

/-- `TQ <- q`. -/
def State.setTxq (s : State) (q : List Word) : State :=
  { s with fabric := { s.fabric with txf := Table.set s.fabric.txf s.txKey q } }

/-- `cap_RX(join)` for a FIFO depth (R33). -/
def capRx (depth : Nat) : FJoin → Nat
  | .none => depth
  | .rx => 2 * depth
  | .tx => 0

/-- `cap_TX(join)` for a FIFO depth (R33). -/
def capTx (depth : Nat) : FJoin → Nat
  | .none => depth
  | .rx => 0
  | .tx => 2 * depth

/-- `cap_RX(RX)`, the capacity the RX lane's pushes obey (R210). -/
def State.rxCap (s : State) : Nat := capRx s.launch.fifoDepth .rx

/-- `LC[inst][tx.lane].FJOIN`; an unowned field reads as any value (R37; log 5). -/
def State.txJoin (s : State) : FJoin :=
  (s.fabric.laneCfg s.inst s.tx.lane).fjoin.getD (Config.unownedJoin s.txKey)

/-- `cap_TX(LC[inst][tx.lane].FJOIN)`, the capacity WRITE obeys (R185). -/
def State.txCap (s : State) : Nat := capTx s.launch.fifoDepth s.txJoin

/-- Slots `o .. o+n-1` of `PM[i]` are all free (R61). -/
def slotsFree (pm : Table Slot) (i o n : Nat) : Bool :=
  (List.range n).all (fun k => (Table.get pm (key i (o + k))).isNone)

/-- The offsets at which a program of `n` slots fits in `PM[i]` of `size` slots (R61 `fits`). -/
def fits (pm : Table Slot) (size i n : Nat) : List Nat :=
  (List.range (size + 1)).filter (fun o => decide (o + n ≤ size) && slotsFree pm i o n)

/-- The element of a list a free number chooses; none of an empty list. -/
def pick (free : Nat) (l : List Nat) : Option Nat :=
  l[free % l.length]?

/-- `MemWrite(i, o, n, relocate(prog, o))`, slot by slot (R61). -/
def slotWrites (i : Nat) (prog : Program) (o n : Nat) : List FabricWrite :=
  (List.range n).map (fun k => .slot i (o + k) (.code prog o k))

/-- `ProgLoad(inst, prog, n)` (R61): the offset drawn and the state with the program written, or the faulted state. -/
def progLoad (prog : Program) (n : Nat) (s : State) : Except State (Nat × State) :=
  match pick (Config.freeOffset s.draws) (fits s.fabric.pm s.launch.progMemSize s.inst n) with
  | none => .error (s.raise (.progNoSpace prog))
  | some o => .ok (o, s.drawn.writes (slotWrites s.inst prog o n))

/-- The `CLKDIV` a divisor gives the lanes (R36, R141): its own fields in range, one draw for both lanes out of range. -/
def clkDivOf (d : DivResult) (s : State) : ClkDiv :=
  match d with
  | .inRange n f => ⟨n, f⟩
  | .outOfRange _ _ => Config.freeClkDiv s.draws

/-- The draws taken once a divisor's `CLKDIV` is chosen: one more out of range. -/
def drawsAfter (d : DivResult) (n : Nat) : Nat :=
  match d with
  | .inRange _ _ => n
  | .outOfRange _ _ => n + 1

/-- `st.div <- some d` (R29, R141), once the `CLKDIV` of `d` is chosen. -/
def State.latchDiv (s : State) (d : DivResult) : State :=
  { s with div := some d, draws := drawsAfter d s.draws }

end Sys2Proof.Machine
end

