-- ==== Sys2Proof/Machine/Response.lean ====
section
/-! DEFINITION. The response forms (30_encoding R94 to R96). INT32 is `zextByte` and `minusOne` of Word.lean. -/

namespace Sys2Proof.Machine

/-- ZERO (R94). -/
def respZero : Word := 0#32

/-- ONE (R94). -/
def respOne : Word := 1#32

/-- COUNT: `zext_32(n)` (R94, R182). R7 bounds no FIFO depth, and the spec does not say what `zext_32(n)` is for a count of `2^32`
or more: there the answer is its low 32 bits (DESIGN CHOICE, unsafe for such a launch: log 29). -/
def respCount (n : Nat) : Word := BitVec.ofNat 32 n

/-- DIVCODE (R95): `INT` in 31:16, `FRAC` in 15:8; an out-of-range divisor is 0. -/
def divCode : DivResult → Word
  | .inRange n f => n ++ f ++ 0#8
  | .outOfRange _ _ => 0#32

/-- The `OFFSET` field (R96): the program offset, or `0xFF` for none; of an offset above 255, its low bits (log 25). -/
def offsetField : Option Nat → BitVec 8
  | some o => BitVec.ofNat 8 o
  | none => 0xFF#8

/-- CHANREC (R96): `EN` in 31, `OFFSET` in 19:12, `LANE` in 11:8, `PIN` in 7:0; of a number too large
for its field, the low bits (log 25). -/
def chanRec (ch : Channel) : Word :=
  BitVec.ofBool ch.enabled ++ 0#11 ++ offsetField ch.offset ++ BitVec.ofNat 4 ch.lane ++ pinField ch.pin

end Sys2Proof.Machine
end

