-- ==== Sys2Proof/Machine/Divisor.lean ====
section
/-! DEFINITION. The clock divisor calculator (40_divisor R120 to R125): the function `DivCalc`, and the commands DIVCALC and
GETDIV. Numbers are exact; the quotient `num / den` stands for a rational. -/

namespace Sys2Proof.Machine

/-- Quantize `x = num / den` to 16.8 by truncation, when `1 <= x < 65536`, and keep `x` in lowest terms otherwise (R121). -/
def quantize (num den : Nat) : DivResult :=
  if den ≤ num ∧ num < 65536 * den then
    .inRange (BitVec.ofNat 16 (num / den)) (BitVec.ofNat 8 (256 * num / den % 256))
  else
    .outOfRange (num / num.gcd den) (den / num.gcd den)

/-- The integer nearest to `num / den`, ties to even. -/
def roundHalfEven (num den : Nat) : Nat :=
  let q := num / den
  let r := num % den
  if 2 * r < den then q
  else if den < 2 * r then q + 1
  else if q % 2 = 0 then q else q + 1

/-- `fl32(num / den)` times `2^64`: IEEE binary32, round to nearest even (R121). The arguments it meets lie between `2^-32` and
`2^32` or are 0, so the result is 0 or normal (log 17). -/
def fl32 (num den : Nat) : Nat :=
  if num = 0 then 0
  else
    let e := (num * 2 ^ 64 / den).log2 - 23
    roundHalfEven (num * 2 ^ 64) (den * 2 ^ e) * 2 ^ e

/-- `DivCalc(clk, baud)` (R121), for `baud >= 1` (R122). -/
def divCalc (arith : DivArith) (clk : BitVec 32) (baud : Word) : DivResult :=
  match arith with
  | .exactTrunc => quantize clk.toNat (oversample * baud.toNat)
  | .float32Trunc =>
    let d := BitVec.ofNat 32 (oversample * baud.toNat)
    if d = 0#32 then .outOfRange 0 1
    else quantize (fl32 (fl32 clk.toNat 1) (fl32 d.toNat 1)) (2 ^ 64)

/-- `DivCalc` with the launch's clock and arithmetic. -/
def State.divFor (s : State) (baud : Word) : DivResult :=
  divCalc s.launch.divArith s.launch.sysclk baud

/-- DIVCALC (R125). -/
def execDivcalc (baud : Word) (s : State) : Host.Outcome State Fault Refusal :=
  if baud = 0#32 then .next (s.raise (.baudZero (encode (.divcalc baud))))
  else .next (s.respond (divCode (s.divFor baud)))

/-- GETDIV (R124). -/
def execGetdiv (s : State) : Host.Outcome State Fault Refusal :=
  match s.div with
  | none => .next (s.raise (.notStarted (encode .getdiv)))
  | some d => .next (s.respond (divCode d))

end Sys2Proof.Machine
end

