-- ==== Sys2Proof/Machine/Flags.lean ====
section
/-! DEFINITION. The status flags (10_state R26) and the predicate `timing_valid` (40_divisor R123). The block has no arithmetic
flags (R26) and no readiness flag (R27). `started`, `rx.enabled` and `tx.enabled` are fields of the state. -/

namespace Sys2Proof.Machine

/-- The flag "peek valid" (R26): the cache holds a byte. -/
def State.peekValid (s : State) : Bool := s.peek.isSome

/-- `started <- true` (R26, R141). -/
def State.markStarted (s : State) : State := { s with started := true }

/-- `rx.offset <- some o; rx.divisor <- some d; rx.enabled <- true` (R143, step RX10). -/
def State.markRxEnabled (s : State) (o : Nat) (d : DivResult) : State :=
  { s with rx := { s.rx with offset := some o, divisor := some d, enabled := true } }

/-- `tx.offset <- some o; tx.divisor <- some d; tx.enabled <- true` (R145, step TX10). -/
def State.markTxEnabled (s : State) (o : Nat) (d : DivResult) : State :=
  { s with tx := { s.tx with offset := some o, divisor := some d, enabled := true } }

/-- The divisor is in range. -/
def DivResult.isInRange : DivResult → Bool
  | .inRange _ _ => true
  | .outOfRange _ _ => false

/-- `timing_valid(st)`: `st.div = some (InRange _ _)` (R123). -/
def State.timingValid (s : State) : Bool :=
  match s.div with
  | some d => d.isInRange
  | none => false

end Sys2Proof.Machine
end

