-- ==== Sys2Proof/Machine/Operands.lean ====
section
/-! DEFINITION. What the operations check of their operands and of the construction record (30_encoding R102;
41_channel_control R140, R141, R152). -/

namespace Sys2Proof.Machine

/-- UNSET, or a pin the platform has (R28, R140). -/
def pinLegal (npins : Nat) : Pin → Bool
  | .unset => true
  | .gpio n => decide (n < npins)

/-- The operands of CONFIG are in their legal ranges (R140). -/
def configLegal (l : Launch) (txPin rxPin : Pin) (rxLane txLane inst : Nat) : Bool :=
  pinLegal l.npins txPin && pinLegal l.npins rxPin && decide (rxLane < nlanes) && decide (txLane < nlanes)
    && decide (inst < l.ninst)

/-- The pin both channels name, when both pins are set and equal (R141). -/
def State.pinConflict (s : State) : Option Nat :=
  match s.rx.pin, s.tx.pin with
  | .gpio r, .gpio t => if r = t then some r else none
  | _, _ => none

/-- The lane both channels name, when both pins are set and the lanes equal (R141). -/
def State.laneConflict (s : State) : Option Nat :=
  match s.rx.pin, s.tx.pin with
  | .gpio _, .gpio _ => if s.rx.lane = s.tx.lane then some s.rx.lane else none
  | _, _ => none

/-- The channel record `DIR` selects (R93, R152). -/
def State.channel (s : State) : Dir → Channel
  | .rx => s.rx
  | .tx => s.tx

end Sys2Proof.Machine
end

