-- ==== Sys2Proof/Machine/Channel.lean ====
section
/-! DEFINITION. The channel pin-mux and FIFO-join controller (41_channel_control): CONFIG, START, STOP, END and GETCHAN. -/

namespace Sys2Proof.Machine

/-- CONFIG (R140). -/
def execConfig (txPin rxPin : Pin) (rxLane txLane inst : Nat) (s : State) : Host.Outcome State Fault Refusal :=
  let cmd := encode (.config txPin rxPin rxLane txLane inst)
  if s.started then .next (s.raise (.cfgAfterStart cmd))
  else if configLegal s.launch txPin rxPin rxLane txLane inst then
    let s' := { s with
      rx := { s.rx with pin := rxPin, lane := rxLane }
      tx := { s.tx with pin := txPin, lane := txLane }
      inst := inst }
    .next (s'.respond respZero)
  else .next (s.raise (.cfgRange cmd))

/-- Steps RX1 to RX3 (R143): the pin is an input, routed to the coprocessor, with its pull-up. -/
def rxPinWrites (i p : Nat) : List FabricWrite :=
  [.pindir i p .input, .funcsel p i, .pull p .up]

/-- Steps RX5 to RX10 (R143), the lane's enable last (R76). -/
def rxLaneWrites (i p l o : Nat) (c : ClkDiv) : List FabricWrite :=
  [.lane i l (.inBase p), .lane i l (.jmpPin p),
   .lane i l (.inShiftdir .right), .lane i l (.autopush false),
   .lane i l (.autopull false), .lane i l (.pushThresh 32),
   .lane i l (.fjoin .rx),
   .lane i l (.clkdiv c),
   .clearFifos i l, .lane i l (.pc o),
   .lane i l (.en true)]

/-- Steps TX1 to TX3 (R145): the latch is high and the direction out before the pin is routed (R265). -/
def txPinWrites (i p : Nat) : List FabricWrite :=
  [.pinout i p true, .pindir i p .output, .funcsel p i]

/-- Steps TX5 to TX10 (R145), the lane's enable last (R76). -/
def txLaneWrites (i p l o : Nat) (c : ClkDiv) : List FabricWrite :=
  [.lane i l (.outShiftdir .right), .lane i l (.autopull false), .lane i l (.pullThresh 32),
   .lane i l (.outBase p), .lane i l (.outCount 1), .lane i l (.sidesetBase p),
   .lane i l (.fjoin .tx),
   .lane i l (.clkdiv c),
   .clearFifos i l, .lane i l (.pc o),
   .lane i l (.en true)]

/-- `ConfigureRX(d, c)` when `rx.pin` is set (R143); an unset pin is skipped (R153). -/
def configureRx (d : DivResult) (c : ClkDiv) (s : State) : Except State State :=
  match s.rx.pin with
  | .unset => .ok s
  | .gpio p =>
    match progLoad .rx s.launch.rxProgLen (s.writes (rxPinWrites s.inst p)) with
    | .error s' => .error s'
    | .ok (o, s') => .ok ((s'.writes (rxLaneWrites s.inst p s.rx.lane o c)).markRxEnabled o d)

/-- `ConfigureTX(d, c)` when `tx.pin` is set (R145); an unset pin is skipped (R153). -/
def configureTx (d : DivResult) (c : ClkDiv) (s : State) : Except State State :=
  match s.tx.pin with
  | .unset => .ok s
  | .gpio p =>
    match progLoad .tx s.launch.txProgLen (s.writes (txPinWrites s.inst p)) with
    | .error s' => .error s'
    | .ok (o, s') => .ok ((s'.writes (txLaneWrites s.inst p s.tx.lane o c)).markTxEnabled o d)

/-- The part of START after its checks (R141): latch the divisor, configure RX, then TX (R156), and mark the block started. -/
def startChannels (baud : Word) (s : State) : State :=
  let d := s.divFor baud
  let c := clkDivOf d s
  match configureRx d c (s.latchDiv d) with
  | .error s2 => s2
  | .ok s2 =>
    match configureTx d c s2 with
    | .error s3 => s3
    | .ok s3 => s3.markStarted.respond respZero

/-- START (R141). `FRAME` is ignored (R142). -/
def execStart (frame : BitVec 16) (baud : Word) (s : State) : Host.Outcome State Fault Refusal :=
  let cmd := encode (.start frame baud)
  if s.started then .next (s.raise (.restart cmd))
  else if baud = 0#32 then .next (s.raise (.baudZero cmd))
  else
    match s.pinConflict, s.laneConflict with
    | some p, _ => .next (s.raise (.pinConflict p))
    | none, some l => .next (s.raise (.laneConflict l))
    | none, none => .next (startChannels baud s)

/-- STOP (R150): no operation. -/
def execStop (s : State) : Host.Outcome State Fault Refusal :=
  .next (s.respond respZero)

/-- END (R151): no operation. -/
def execEnd (s : State) : Host.Outcome State Fault Refusal :=
  .next (s.respond respZero)

/-- GETCHAN (R152). -/
def execGetchan (dir : Dir) (s : State) : Host.Outcome State Fault Refusal :=
  .next (s.respond (chanRec (s.channel dir)))

end Sys2Proof.Machine
end

