-- ==== Sys2Proof/Machine/Stream.lean ====
section
/-! DEFINITION. The word-to-byte extractor and the stream port (42_stream): AVAILABLE, PEEK, READ, WRITE, FLUSH and READY. -/

namespace Sys2Proof.Machine

/-- `Extract(w) = w[31:24]` (R180, R63). -/
def extract (w : Word) : Byte := w.extractLsb' 24 8

/-- AVAILABLE (R182). -/
def execAvailable (s : State) : Host.Outcome State Fault Refusal :=
  if s.rx.enabled then .next (s.respond (respCount s.rxq.length))
  else .next (s.raise (.rxUnconfigured (encode .available)))

/-- PEEK (R183). -/
def execPeek (s : State) : Host.Outcome State Fault Refusal :=
  if s.rx.enabled then
    match s.peek, s.rxq with
    | some b, _ => .next (s.respond (zextByte b))
    | none, [] => .next (s.respond minusOne)
    | none, w :: q => .next (({ s.setRxq q with peek := some (extract w) }).respond (zextByte (extract w)))
  else .next (s.raise (.rxUnconfigured (encode .peek)))

/-- READ (R184). -/
def execRead (s : State) : Host.Outcome State Fault Refusal :=
  if s.rx.enabled then
    match s.peek, s.rxq with
    | some b, _ => .next (({ s with peek := none }).respond (zextByte b))
    | none, [] => .next (s.respond minusOne)
    | none, w :: q => .next ((s.setRxq q).respond (zextByte (extract w)))
  else .next (s.raise (.rxUnconfigured (encode .read)))

/-- WRITE (R185). While the TX FIFO is full it holds: the state, with the command pending, is unchanged (R12, R240). -/
def execWrite (byte : Byte) (s : State) : Host.Outcome State Fault Refusal :=
  if s.tx.enabled then
    if s.txq.length = s.txCap then .next s
    else .next ((s.setTxq (s.txq ++ [zextByte byte])).respond respOne)
  else .next (s.raise (.txUnconfigured (encode (.write byte))))

/-- FLUSH (R186): no operation, and no wait. -/
def execFlush (s : State) : Host.Outcome State Fault Refusal :=
  .next (s.respond respZero)

/-- READY (R187): always ready (R27). -/
def execReady (s : State) : Host.Outcome State Fault Refusal :=
  .next (s.respond respOne)

end Sys2Proof.Machine
end

