-- ==== Sys2Proof/Machine/Dispatch.lean ====
section
/-! DEFINITION. The one match from a command to its meaning. -/

namespace Sys2Proof.Machine

def exec (i : Instr) (s : State) : Host.Outcome State Fault Refusal :=
  match i with
  | .config txPin rxPin rxLane txLane inst => Sys2Proof.Machine.execConfig txPin rxPin rxLane txLane inst s
  | .start frame baud => Sys2Proof.Machine.execStart frame baud s
  | .stop => Sys2Proof.Machine.execStop s
  | .endCmd => Sys2Proof.Machine.execEnd s
  | .available => Sys2Proof.Machine.execAvailable s
  | .peek => Sys2Proof.Machine.execPeek s
  | .read => Sys2Proof.Machine.execRead s
  | .write byte => Sys2Proof.Machine.execWrite byte s
  | .flush => Sys2Proof.Machine.execFlush s
  | .ready => Sys2Proof.Machine.execReady s
  | .divcalc baud => Sys2Proof.Machine.execDivcalc baud s
  | .getdiv => Sys2Proof.Machine.execGetdiv s
  | .getchan dir => Sys2Proof.Machine.execGetchan dir s

end Sys2Proof.Machine
end

