-- ==== Sys2Proof/Machine/Lanes.lean ====
section
/-! DEFINITION. The two lane agents at the FIFOs and the line (43_lane_contract R210 to R220). Their steps are no commands. A
frame is ten line levels in time order, bit 0 first: start, `b[0]` to `b[7]`, stop (R66, R214). -/

namespace Sys2Proof.Machine

/-- The frame the TX lane drives for a byte (R214): start bit 0, data least-significant bit first, stop bit 1. -/
def frameOf (b : Byte) : BitVec 10 := 1#1 ++ b ++ 0#1

/-- The ten levels are a well-formed frame (R211, R214): a low start bit and a high stop bit. -/
def frameOk (line : BitVec 10) : Bool := !line.getLsbD 0 && line.getLsbD 9

/-- The data byte of a frame: data bit `k` is level `1 + k` (R66, R211). -/
def frameByte (line : BitVec 10) : Byte := line.extractLsb' 1 8

/-- The frame fixes the byte (R211): timing is valid and the line carried a well-formed frame. -/
def rxSettled (line : BitVec 10) (s : State) : Bool := frameOk line && s.timingValid

/-- The byte of an RX push (R211): the frame's byte where the frame fixes it, else a draw. -/
def rxByte (line : BitVec 10) (s : State) : Byte :=
  if rxSettled line s then frameByte line else Config.freeByte s.draws

/-- The state once that byte is known: one more draw taken where it was a draw. -/
def rxDrawn (line : BitVec 10) (s : State) : State :=
  if rxSettled line s then s else s.drawn

/-- The overrun outcome the policy gives (R212); `any` draws it. -/
def overrunKind (s : State) : OverrunKind :=
  match s.launch.overrunPolicy with
  | .any => Config.freeOverrun s.draws
  | .always k => k

/-- `Overrun(RQ, w)` (R212). R7 leaves `FIFO_DEPTH` open with no lower bound, and R212 does not say what the tail of an empty FIFO
is: at depth 0, `drop_oldest` takes it as empty and leaves the one word `w` (DESIGN CHOICE, unsafe for such a launch: log 30). -/
def overrun (w : Word) (s : State) : State :=
  match overrunKind s with
  | .dropNewest => s.drawn
  | .dropOldest => s.drawn.setRxq (s.rxq.tail ++ [w])
  | .corrupt => s.drawn.setRxq ((List.range s.rxCap).map (Config.freeWord s.draws))

/-- The RX lane pushes one word (R210): append it, or overrun. -/
def pushWord (w : Word) (s : State) : State :=
  if s.rxq.length < s.rxCap then s.setRxq (s.rxq ++ [w]) else overrun w s

/-- The RX lane's step `RxPush(b, low)` (R210), enabled exactly when `rx.enabled`; a turn given to a lane with no step passes
(log 15). -/
def rxPush (line : BitVec 10) (low : BitVec 24) (s : State) : State :=
  if s.rx.enabled then pushWord (rxByte line s ++ low) (rxDrawn line s) else s

/-- The TX lane's step `TxPop` (R214), enabled exactly when `tx.enabled` and its FIFO is not empty (R216). -/
def txPop (s : State) : State :=
  if s.tx.enabled then
    match s.txq with
    | [] => s
    | w :: q => { s.setTxq q with lineTx := s.lineTx ++ [w.extractLsb' 0 8] }
  else s

/-- The TX lane must take a step in the end (R217): timing is valid and its step is enabled. -/
def State.txFair (s : State) : Bool :=
  s.tx.enabled && !s.txq.isEmpty && s.timingValid

/-- The levels on the TX line so far, frame after frame (R42, R214). -/
def State.txWave (s : State) : List (BitVec 10) := s.lineTx.map frameOf

end Sys2Proof.Machine
end

