-- ==== Sys2Proof/Machine/Port.lean ====
section
/-! DEFINITION. The command port (30_encoding R90) and the turns of the three agents (20_memory R73, R74). -/

namespace Sys2Proof.Machine

/-- The fault a word that is no command raises (R99, R100), with the command word recorded (R232). -/
def decodeFault (w : Cmd) : DecodeError → FaultCode
  | .illegalOp => .illegalOp w
  | .reserved => .reserved w

/-- Decode a command word and run the command (R98). -/
def runCommand (w : Cmd) (s : State) : Host.Outcome State Fault Refusal :=
  match decode w with
  | .ok i => exec i s
  | .error e => .next (s.raise (decodeFault w e))

/-- The port takes the command word `w` from the host (R90). -/
def State.accept (s : State) (w : Cmd) (rest : List Cmd) : State :=
  { s with cmds := rest, port := some w, resp := none }

/-- The host's turn: retry the pending command (R240), or present the next one, or rest when the sequence has ended (R277;
log 11). -/
def hostTurn (s : State) : Host.Outcome State Fault Refusal :=
  match s.port, s.cmds with
  | some w, _ => runCommand w s
  | none, w :: ws => runCommand w (s.accept w ws)
  | none, [] => .next s

/-- The command word is a WRITE that holds now: the TX FIFO is full (R185, R240). -/
def State.holds (s : State) (w : Cmd) : Bool :=
  match decode w with
  | .ok (.write _) => s.tx.enabled && decide (s.txq.length = s.txCap)
  | _ => false

/-- The host has no step now (R12 `hold`, R240, R277): its command holds, or its sequence has ended. -/
def State.hostWaits (s : State) : Bool :=
  match s.port, s.cmds with
  | some w, _ => s.holds w
  | none, _ :: _ => false
  | none, [] => true

/-- One step of the agent the schedule names (R74). When the schedule has ended, the host moves; while it waits, the TX lane
moves if it must in the end (R217; log 3). -/
def takeTurn (s : State) : Host.Outcome State Fault Refusal :=
  match s.turns with
  | .host :: ts => hostTurn { s with turns := ts }
  | .rxPush line low :: ts => .next (rxPush line low { s with turns := ts })
  | .txPop :: ts => .next (txPop { s with turns := ts })
  | [] => if s.hostWaits && s.txFair then .next (txPop s) else hostTurn s

/-- The state with command word `w` pending and the host's turn next, in no faulted state (log 10). -/
def State.present (s : State) (w : Cmd) : State :=
  { s with fault := none, port := some w, resp := none, turns := .host :: s.turns }

end Sys2Proof.Machine
end

