-- ==== Sys2Proof/Machine/Step.lean ====
section
/-! DEFINITION. One step of the machine: the faulted state has no successor (60_exceptions R231, R237), and otherwise one agent
takes one step (20_memory R73, R74). -/

namespace Sys2Proof.Machine

/-- One step. -/
def step (s : State) : Host.Outcome State Fault Refusal :=
  match s.fault with
  | some c => .fault (.faulted c)
  | none => takeTurn s

/-- The state whose very next step runs the command word of `w`, with the bits above `nbits` zero: the host presents it at the
port (log 10). -/
def State.withFetchWord (s : State) (nbits w : Nat) : State :=
  s.present (BitVec.ofNat 64 (w % 2 ^ nbits))

end Sys2Proof.Machine
end

