-- ==== Sys2Proof/Machine/Asm.lean ====
section
/-! DEFINITION. The textual form of a command and its pseudo-instructions (30_encoding R103, R104). No step uses it. -/

namespace Sys2Proof.Machine

/-- The mnemonic of a row as text writes it (R103). -/
def opText : Op → String
  | .config => "config"
  | .start => "start"
  | .stop => "stop"
  | .endCmd => "end"
  | .available => "available"
  | .peek => "peek"
  | .read => "read"
  | .write => "write"
  | .flush => "flush"
  | .ready => "ready"
  | .divcalc => "divcalc"
  | .getdiv => "getdiv"
  | .getchan => "getchan"

/-- A pin operand as text (R103). -/
def pinText : Pin → String
  | .unset => "unset"
  | .gpio n => Nat.repr n

/-- The textual form of a command, every operand written, numbers in decimal (R103). -/
def commandText (i : Instr) : String :=
  match i with
  | .config txPin rxPin rxLane txLane inst =>
    "config tx=" ++ pinText txPin ++ ", rx=" ++ pinText rxPin ++ ", rxlane=" ++ Nat.repr rxLane ++ ", txlane="
      ++ Nat.repr txLane ++ ", inst=" ++ Nat.repr inst
  | .start frame baud => "start " ++ Nat.repr baud.toNat ++ ", " ++ Nat.repr frame.toNat
  | .write byte => "write " ++ Nat.repr byte.toNat
  | .divcalc baud => "divcalc " ++ Nat.repr baud.toNat
  | .getchan .rx => "getchan rx"
  | .getchan .tx => "getchan tx"
  | .stop => "stop"
  | .endCmd => "end"
  | .available => "available"
  | .peek => "peek"
  | .read => "read"
  | .flush => "flush"
  | .ready => "ready"
  | .getdiv => "getdiv"

/-- The pieces of a text between the characters `c`. -/
def splitAtChar (c : Char) : List Char → List (List Char)
  | [] => [[]]
  | x :: xs =>
    match splitAtChar c xs with
    | [] => [[x]]
    | p :: ps => if x = c then [] :: p :: ps else (x :: p) :: ps

/-- A text without spaces at its two ends. -/
def trimSpaces (t : List Char) : List Char :=
  ((t.dropWhile (· = ' ')).reverse.dropWhile (· = ' ')).reverse

/-- The value of a digit in a base of at most 16. -/
def digitValue (base : Nat) (c : Char) : Option Nat :=
  let v :=
    if '0' ≤ c ∧ c ≤ '9' then c.toNat - 48
    else if 'a' ≤ c ∧ c ≤ 'f' then c.toNat - 87
    else if 'A' ≤ c ∧ c ≤ 'F' then c.toNat - 55
    else base
  if v < base then some v else none

/-- The number a digit string writes in a base, after the value `acc` of the digits before it. -/
def digitsValue (base acc : Nat) : List Char → Option Nat
  | [] => some acc
  | c :: cs =>
    match digitValue base c with
    | some v => digitsValue base (acc * base + v) cs
    | none => none

/-- A number in decimal or `0x` hexadecimal (R103). -/
def numberOf : List Char → Option Nat
  | [] => none
  | '0' :: 'x' :: c :: cs => digitsValue 16 0 (c :: cs)
  | c :: cs => digitsValue 10 0 (c :: cs)

/-- A pin operand; `unset` spells `0xFF` (R103). -/
def pinOf (t : List Char) : Option Pin :=
  if t = "unset".toList then some .unset
  else (numberOf t).map (fun n => if n = unsetCode.toNat then Pin.unset else Pin.gpio n)

/-- A number below `2^w` as a value of `w` bits. -/
def fieldOf (w : Nat) (t : List Char) : Option (BitVec w) :=
  match numberOf t with
  | some n => if n < 2 ^ w then some (BitVec.ofNat w n) else none
  | none => none

/-- CONFIG with every operand at its default (R104). -/
def configDefault : Instr := .config .unset .unset 0 1 0

/-- One named operand of CONFIG, written over a CONFIG (R103, R104). -/
def configNamed (i : Instr) (name value : List Char) : Option Instr :=
  match i with
  | .config tx rx rl tl ins =>
    if name = "tx".toList then (pinOf value).map (fun p => .config p rx rl tl ins)
    else if name = "rx".toList then (pinOf value).map (fun p => .config tx p rl tl ins)
    else if name = "rxlane".toList then (numberOf value).map (fun n => .config tx rx n tl ins)
    else if name = "txlane".toList then (numberOf value).map (fun n => .config tx rx rl n ins)
    else if name = "inst".toList then (numberOf value).map (fun n => .config tx rx rl tl n)
    else none
  | _ => none

/-- The named operands of CONFIG, each over the ones before it. -/
def configOperands (i : Instr) : List (List Char) → Option Instr
  | [] => some i
  | t :: ts =>
    match splitAtChar '=' t with
    | [name, value] =>
      match configNamed i (trimSpaces name) (trimSpaces value) with
      | some i' => configOperands i' ts
      | none => none
    | _ => none

/-- The command of a mnemonic and its operands, with the pseudo-instructions of R104. -/
def assembleParts (mnemonic : List Char) (operands : List (List Char)) : Option Instr :=
  if mnemonic = "config".toList then
    match operands with
    | [tx, rx] =>
      match pinOf tx, pinOf rx with
      | some t, some r => some (.config t r 0 1 0)
      | _, _ => configOperands configDefault operands
    | _ => configOperands configDefault operands
  else if mnemonic = "start".toList then
    match operands with
    | [] => some (.start 0#16 defaultBaud)
    | [baud] => (fieldOf 32 baud).map (fun b => .start 0#16 b)
    | [baud, frame] => (fieldOf 32 baud).bind (fun b => (fieldOf 16 frame).map (fun f => .start f b))
    | _ => none
  else if mnemonic = "write".toList then
    match operands with
    | [byte] => (fieldOf 8 byte).map (fun b => .write b)
    | _ => none
  else if mnemonic = "divcalc".toList then
    match operands with
    | [baud] => (fieldOf 32 baud).map (fun b => .divcalc b)
    | _ => none
  else if mnemonic = "getchan".toList then
    if operands = ["rx".toList] then some (.getchan .rx)
    else if operands = ["tx".toList] then some (.getchan .tx)
    else none
  else if operands ≠ [] then none
  else if mnemonic = "stop".toList then some .stop
  else if mnemonic = "end".toList then some .endCmd
  else if mnemonic = "available".toList then some .available
  else if mnemonic = "peek".toList then some .peek
  else if mnemonic = "read".toList then some .read
  else if mnemonic = "flush".toList then some .flush
  else if mnemonic = "ready".toList then some .ready
  else if mnemonic = "getdiv".toList then some .getdiv
  else none

/-- The operand texts after a mnemonic: none of an empty text, and otherwise the pieces between commas (R103). -/
def operandTexts (t : List Char) : List (List Char) :=
  if trimSpaces t = [] then [] else (splitAtChar ',' t).map trimSpaces

/-- The command a line of text spells (R103, R104), if it is one and has an encoding. -/
def assemble (text : String) : Option Instr :=
  let line := trimSpaces text.toList
  let mnemonic := line.takeWhile (· ≠ ' ')
  match assembleParts mnemonic (operandTexts (line.dropWhile (· ≠ ' '))) with
  | some i => if i.wellFormed then some i else none
  | none => none

end Sys2Proof.Machine
end

