-- ==== Sys2Proof/Machine/Timing.lean ====
section
/-! DEFINITION. What the spec says of line timing (40_divisor R127, 70_reset_and_hazards R275). No step uses it: the model has
no time (R274). -/

namespace Sys2Proof.Machine

/-- The quantized divisor `Q = INT + FRAC/256` of a divisor in range (R127). -/
def DivResult.quantized : DivResult → Option Rat
  | .inRange n f => some (mkRat (256 * n.toNat + f.toNat) 256)
  | .outOfRange _ _ => none

/-- System clock cycles one serial bit lasts, `8 * Q` (R275); none where the timing is unspecified (R215). -/
def State.bitCycles (s : State) : Option Rat :=
  (s.div.bind DivResult.quantized).map (fun q => oversample * q)

/-- System clock cycles one ten-bit frame lasts, `80 * Q` (R275). -/
def State.frameCycles (s : State) : Option Rat :=
  s.bitCycles.map (fun c => 10 * c)

end Sys2Proof.Machine
end

