-- ==== Sys2Proof/Safety.lean ====
section
/-! DEFINITION. What counts as a safe run, and the invariants of the machine in the terms claims use (10_state R24, R25;
60_exceptions R231). -/

namespace Sys2Proof.Machine

/-- The state is not the faulted one (R231). -/
def State.safe (s : State) : Bool := s.fault.isNone

/-- The launch premises make a machine: FIFOs and programs are not empty (log 30), program memory fits GETCHAN's field (R96, D7),
and a pin number is no code of UNSET (D6; log 25). -/
def launchSound (l : Launch) : Bool :=
  decide (1 ≤ l.fifoDepth) && decide (1 ≤ l.rxProgLen) && decide (1 ≤ l.txProgLen) && decide (l.progMemSize ≤ 255)
    && decide (l.npins ≤ 255)

/-- R24: a channel whose pin is UNSET is not configured. -/
abbrev Channel.unsetIsIdle (ch : Channel) : Prop :=
  ch.pin = .unset → ch.enabled = false ∧ ch.offset = none ∧ ch.divisor = none

/-- R25: an enabled channel has the latched divisor. -/
abbrev Channel.enabledHasDiv (ch : Channel) (div : Option DivResult) : Prop :=
  ch.enabled = true → ch.divisor = div ∧ div.isSome = true

/-- The channel has not been configured (R23). -/
abbrev Channel.notConfigured (ch : Channel) : Prop :=
  ch.enabled = false ∧ ch.offset = none ∧ ch.divisor = none

/-- The invariant of the block state: R24, R25, and that nothing is configured before a START succeeds (R23, R26, R29). -/
abbrev State.blockInv (s : State) : Prop :=
  s.rx.unsetIsIdle ∧ s.tx.unsetIsIdle ∧ s.rx.enabledHasDiv s.div ∧ s.tx.enabledHasDiv s.div
    ∧ (s.rx.enabled = false → s.peek = none)
    ∧ (s.fault = none → s.started = false → s.rx.notConfigured ∧ s.tx.notConfigured ∧ s.div = none)

/-- The construction record holds legal values (R28). -/
abbrev State.recordInv (s : State) : Prop :=
  configLegal s.launch s.tx.pin s.rx.pin s.rx.lane s.tx.lane s.inst = true

/-- The queue of a key is owned and holds at most `cap` words (R33). -/
def queueOwned (t : Table (List Word)) (k cap : Nat) : Bool :=
  match Table.get t k with
  | some q => decide (q.length ≤ cap)
  | none => false

/-- The join setting of `LC[i][l]` (R30); none where unowned. -/
def Fabric.joinOf (f : Fabric) (i l : Nat) : Option FJoin := (f.laneCfg i l).fjoin

/-- The two enabled lanes have joined FIFOs within their capacity, and are different lanes (R33, R148, R157), on a launch whose
`FIFO_DEPTH` is at least 1 (log 30). -/
abbrev State.fifoInv (s : State) : Prop :=
  (s.rx.enabled = true →
    queueOwned s.fabric.rxf s.rxKey s.rxCap = true ∧ s.fabric.joinOf s.inst s.rx.lane = some .rx)
  ∧ (s.tx.enabled = true →
    queueOwned s.fabric.txf s.txKey (capTx s.launch.fifoDepth .tx) = true
      ∧ s.fabric.joinOf s.inst s.tx.lane = some .tx)
  ∧ (s.rx.enabled = true → s.tx.enabled = true → s.rx.lane ≠ s.tx.lane)
  ∧ (s.fault = none → s.started = false → s.rx.enabled = false ∧ s.tx.enabled = false)
  ∧ 1 ≤ s.launch.fifoDepth

/-- What ConfigureRX leaves in the fabric for a lane and its pin (R143, R146): true while the channel is enabled. -/
abbrev State.rxConfigured (s : State) : Prop :=
  match s.rx.pin with
  | .unset => s.rx.enabled = false
  | .gpio p =>
    s.rx.enabled = true →
      let lc := s.fabric.laneCfg s.inst s.rx.lane
      lc.en = some true ∧ lc.pc = s.rx.offset ∧ lc.inBase = some p ∧ lc.jmpPin = some p
        ∧ lc.inShiftdir = some .right ∧ lc.autopush = some false ∧ lc.autopull = some false
        ∧ lc.pushThresh = some 32 ∧ lc.fjoin = some .rx
        ∧ Table.get s.fabric.pindir (key s.inst p) = some .input
        ∧ Table.get s.fabric.funcsel p = some (.coproc s.inst)
        ∧ Table.get s.fabric.pull p = some .up

/-- What ConfigureTX leaves in the fabric for a lane and its pin (R145, R147, R149): true while the channel is enabled. -/
abbrev State.txConfigured (s : State) : Prop :=
  match s.tx.pin with
  | .unset => s.tx.enabled = false
  | .gpio p =>
    s.tx.enabled = true →
      let lc := s.fabric.laneCfg s.inst s.tx.lane
      lc.en = some true ∧ lc.pc = s.tx.offset ∧ lc.outBase = some p ∧ lc.sidesetBase = some p
        ∧ lc.outCount = some 1 ∧ lc.outShiftdir = some .right ∧ lc.autopull = some false
        ∧ lc.pullThresh = some 32 ∧ lc.fjoin = some .tx
        ∧ Table.get s.fabric.pindir (key s.inst p) = some .output
        ∧ Table.get s.fabric.pinout (key s.inst p) = some true
        ∧ Table.get s.fabric.funcsel p = some (.coproc s.inst)

/-- An in-range latched divisor is the `CLKDIV` of each enabled lane, and two enabled lanes have one `CLKDIV` in any case
(R25, R36). -/
abbrev State.clkdivInv (s : State) : Prop :=
  (s.rx.enabled = true → ∀ n f, s.div = some (.inRange n f) →
    (s.fabric.laneCfg s.inst s.rx.lane).clkdiv = some ⟨n, f⟩)
  ∧ (s.tx.enabled = true → ∀ n f, s.div = some (.inRange n f) →
    (s.fabric.laneCfg s.inst s.tx.lane).clkdiv = some ⟨n, f⟩)
  ∧ (s.rx.enabled = true → s.tx.enabled = true →
    (s.fabric.laneCfg s.inst s.rx.lane).clkdiv = (s.fabric.laneCfg s.inst s.tx.lane).clkdiv)

/-- The configured fabric stays as configured: both channels, on different lanes and pins once both are enabled. -/
abbrev State.configuredInv (s : State) : Prop :=
  s.rxConfigured ∧ s.txConfigured ∧ s.clkdivInv
  ∧ (s.rx.enabled = true → s.tx.enabled = true → s.rx.lane ≠ s.tx.lane ∧ s.rx.pin ≠ s.tx.pin)
  ∧ (s.fault = none → s.started = false → s.rx.enabled = false ∧ s.tx.enabled = false)

/-- No listed record equals what an unlisted one reads as. -/
def lanesOwned (t : Table LaneCfg) : Bool := t.all (fun e => decide (e.2 ≠ LaneCfg.unowned))

/-- Every index space of the fabric is in canonical form (20_memory R60). -/
def Fabric.wf (f : Fabric) : Bool :=
  Table.wf f.lc && Table.wf f.funcsel && Table.wf f.pull && Table.wf f.pindir && Table.wf f.pinout
    && Table.wf f.rxf && Table.wf f.txf && Table.wf f.pm && lanesOwned f.lc

/-- What ConfigureRX leaves in the fabric (R143), from `f` to `f'`: for instance `i`, pin `p`, lane `l`, program offset `o` and
length `n`, and `CLKDIV` value `c`; and nothing else is changed. -/
def RxFabricWritten (f f' : Fabric) (i p l o n : Nat) (c : ClkDiv) : Prop :=
  f'.laneCfg i l = { f.laneCfg i l with
    inBase := some p, jmpPin := some p, inShiftdir := some .right, autopush := some false, autopull := some false,
    pushThresh := some 32, fjoin := some .rx, clkdiv := some c, pc := some o, en := some true }
  ∧ (∀ i' l', (i', l') ≠ (i, l) → f'.laneCfg i' l' = f.laneCfg i' l')
  ∧ (∀ p', Table.get f'.funcsel p' = if p' = p then some (.coproc i) else Table.get f.funcsel p')
  ∧ (∀ p', Table.get f'.pull p' = if p' = p then some .up else Table.get f.pull p')
  ∧ (∀ i' p', Table.get f'.pindir (key i' p') = if i' = i ∧ p' = p then some .input else Table.get f.pindir (key i' p'))
  ∧ f'.pinout = f.pinout
  ∧ (∀ i' l', Table.get f'.rxf (key i' l') = if i' = i ∧ l' = l then some [] else Table.get f.rxf (key i' l'))
  ∧ (∀ i' l', Table.get f'.txf (key i' l') = if i' = i ∧ l' = l then some [] else Table.get f.txf (key i' l'))
  ∧ (∀ i' j, Table.get f'.pm (key i' j)
      = if i' = i ∧ o ≤ j ∧ j < o + n then some (.code .rx o (j - o)) else Table.get f.pm (key i' j))

/-- What ConfigureTX leaves in the fabric (R145), from `f` to `f'`; and nothing else is changed. -/
def TxFabricWritten (f f' : Fabric) (i p l o n : Nat) (c : ClkDiv) : Prop :=
  f'.laneCfg i l = { f.laneCfg i l with
    outShiftdir := some .right, autopull := some false, pullThresh := some 32, outBase := some p, outCount := some 1,
    sidesetBase := some p, fjoin := some .tx, clkdiv := some c, pc := some o, en := some true }
  ∧ (∀ i' l', (i', l') ≠ (i, l) → f'.laneCfg i' l' = f.laneCfg i' l')
  ∧ (∀ p', Table.get f'.funcsel p' = if p' = p then some (.coproc i) else Table.get f.funcsel p')
  ∧ f'.pull = f.pull
  ∧ (∀ i' p', Table.get f'.pindir (key i' p') = if i' = i ∧ p' = p then some .output else Table.get f.pindir (key i' p'))
  ∧ (∀ i' p', Table.get f'.pinout (key i' p') = if i' = i ∧ p' = p then some true else Table.get f.pinout (key i' p'))
  ∧ (∀ i' l', Table.get f'.rxf (key i' l') = if i' = i ∧ l' = l then some [] else Table.get f.rxf (key i' l'))
  ∧ (∀ i' l', Table.get f'.txf (key i' l') = if i' = i ∧ l' = l then some [] else Table.get f.txf (key i' l'))
  ∧ (∀ i' j, Table.get f'.pm (key i' j)
      = if i' = i ∧ o ≤ j ∧ j < o + n then some (.code .tx o (j - o)) else Table.get f.pm (key i' j))

/-- One byte round a wire from the TX pin to the RX pin (R194): the host writes it, the TX lane frames it, and the RX lane
pushes what the line carried, with some low bits. -/
def loopByte (b : Byte) (low : BitVec 24) (s : State) : State :=
  match execWrite b s with
  | .next s1 =>
    let s2 := txPop s1
    match s2.lineTx.getLast? with
    | some sent => rxPush (frameOf sent) low s2
    | none => s2
  | _ => s

/-- The bytes of a list, each round the wire in turn. -/
def loopBytes (bs : List (Byte × BitVec 24)) (s : State) : State :=
  bs.foldl (fun s e => loopByte e.1 e.2 s) s

/-- The response words of `n` READs in a row, with no lane step between them. -/
def readMany : Nat → State → List Word
  | 0, _ => []
  | n + 1, s =>
    match execRead s with
    | .next s' => s'.resp.toList ++ readMany n s'
    | _ => []

end Sys2Proof.Machine
end

