-- ==== Sys2Proof/Certificates/Slice0/Obligations.lean ====
section
/-! DEFINITION. The statements for the provers. Each docstring names the rule of spec/ it formalises. A statement about `exec`
that ends in an equation with `.next` is that command's completion statement: it gives the whole next state, so its frame is
everything the right side does not name. -/

open Sys2Proof Sys2Proof.Machine

/-! ### Encoding -/

/-- 30_encoding R105: the four worked encodings, as text, written and read. -/
def Obligations.WorkedEncodingsAgree : Prop :=
  (assemble "config tx=4, rx=5" = some (.config (.gpio 4) (.gpio 5) 0 1 0)
    ∧ encode (.config (.gpio 4) (.gpio 5) 0 1 0) = 0x0100000000100504#64
    ∧ decode 0x0100000000100504#64 = .ok (.config (.gpio 4) (.gpio 5) 0 1 0))
  ∧ (assemble "start 115200, 0" = some (.start 0#16 115200#32)
    ∧ encode (.start 0#16 115200#32) = 0x020000000001C200#64
    ∧ decode 0x020000000001C200#64 = .ok (.start 0#16 115200#32))
  ∧ (assemble "write 0x41" = some (.write 0x41#8)
    ∧ encode (.write 0x41#8) = 0x1300000000000041#64 ∧ decode 0x1300000000000041#64 = .ok (.write 0x41#8))
  ∧ (assemble "getchan tx" = some (.getchan .tx)
    ∧ encode (.getchan .tx) = 0x2200000000000001#64 ∧ decode 0x2200000000000001#64 = .ok (.getchan .tx))

/-- 30_encoding R91 to R93, R98: decoding the word of any well-formed command gives the command back. -/
def Obligations.EncodeThenDecode : Prop :=
  ∀ i : Instr, i.wellFormed = true → decode (encode i) = .ok i

/-- 30_encoding R91 to R93, R98, R99: a word that decodes is the word of the command it decodes to, which is well-formed. -/
def Obligations.DecodeThenEncode : Prop :=
  ∀ (c : Cmd) (i : Instr), decode c = .ok i → i.wellFormed = true ∧ encode i = c

/-- 30_encoding R97: a word is selected by a row's match and mask exactly when it decodes to a command of that row; so no two
rows select one word. -/
def Obligations.RowSelectsDecodedWord : Prop :=
  ∀ (c : Cmd) (op : Op), c &&& op.mask = op.matchWord ↔ ∃ i, decode c = .ok i ∧ i.op = op

/-- 30_encoding R100: an opcode outside the map raises `F_ILLEGAL_OP` with the word recorded and changes no other state; 243 of
the 256 opcode values are outside it. -/
def Obligations.IllegalOpcodeFaults : Prop :=
  (∀ (c : Cmd) (s : State), (∀ op : Op, opcOf c ≠ op.opc) →
    runCommand c s = .next { s with fault := some (.illegalOp c), port := none, resp := none })
  ∧ (List.range 256).countP (fun n => (Op.ofOpc (BitVec.ofNat 8 n)).isNone) = 243

/-- 30_encoding R99: a valid opcode with a bit set that its format reserves raises `F_RESERVED` and changes no other state; a
WRITE with `CMD[55:8] ≠ 0` is such a word. -/
def Obligations.ReservedBitFaults : Prop :=
  (∀ (c : Cmd) (op : Op) (k : Nat) (s : State),
    opcOf c = op.opc → k < 56 → op.mask.getLsbD k = true → c.getLsbD k = true →
    runCommand c s = .next { s with fault := some (.reserved c), port := none, resp := none })
  ∧ ∀ (c : Cmd) (s : State), opcOf c = 0x13#8 → c.extractLsb' 8 48 ≠ 0#48 →
    runCommand c s = .next { s with fault := some (.reserved c), port := none, resp := none }

/-! ### The divisor calculator -/

/-- 40_divisor R120, R121 under `exact_trunc`: the exact quotient `clk / (8 * baud)`, truncated to 16.8 when it lies in
`[1, 65536)`, and kept as the exact quotient otherwise. -/
def Obligations.ExactDivisorIsTruncatedQuotient : Prop :=
  ∀ (clk : BitVec 32) (baud : Word), baud ≠ 0#32 →
    let x : Rat := (clk.toNat : Rat) / (8 * (baud.toNat : Rat))
    (1 ≤ x → x < 65536 →
      divCalc .exactTrunc clk baud = .inRange (BitVec.ofNat 16 ⌊x⌋₊) (BitVec.ofNat 8 (⌊256 * x⌋₊ % 256)))
    ∧ (¬(1 ≤ x ∧ x < 65536) →
      ∃ n d : Nat, d ≠ 0 ∧ (n : Rat) / (d : Rat) = x ∧ divCalc .exactTrunc clk baud = .outOfRange n d)

/-- 40_divisor R121 under `float32_trunc`: the product wraps at 32 bits, and a product of 0 is out of range; otherwise the result
is the quantized binary32 quotient of the two operands, each rounded to binary32 first. `fl32` (with its result scaled by `2^64`)
rounds to the nearest: its result is a 24-bit significand times a power of two, at the power that gives the quotient 24 bits,
within half a unit of the quotient, and even on a tie. The quotient is at least `2^-41`. -/
def Obligations.FloatDivisorRoundsToNearestEven : Prop :=
  (∀ (clk : BitVec 32) (baud : Word),
    let d : BitVec 32 := 8#32 * baud
    (d = 0#32 → divCalc .float32Trunc clk baud = .outOfRange 0 1)
    ∧ (d ≠ 0#32 → divCalc .float32Trunc clk baud = quantize (fl32 (fl32 clk.toNat 1) (fl32 d.toNat 1)) (2 ^ 64)))
  ∧ ∀ num den : Nat, 0 < num → 0 < den → 2 ^ 23 * den ≤ num * 2 ^ 64 →
    ∃ m e : Nat, fl32 num den = m * 2 ^ e ∧ m ≤ 2 ^ 24
      ∧ 2 ^ 23 * 2 ^ e * den ≤ num * 2 ^ 64 ∧ num * 2 ^ 64 < 2 ^ 24 * 2 ^ e * den
      ∧ 2 * (m * 2 ^ e * den) ≤ 2 * (num * 2 ^ 64) + 2 ^ e * den
      ∧ 2 * (num * 2 ^ 64) ≤ 2 * (m * 2 ^ e * den) + 2 ^ e * den
      ∧ (2 * (m * 2 ^ e * den) = 2 * (num * 2 ^ 64) + 2 ^ e * den
          ∨ 2 * (num * 2 ^ 64) = 2 * (m * 2 ^ e * den) + 2 ^ e * den → m % 2 = 0)

/-- 40_divisor R126: under `exact_trunc` the divisor is in range exactly when `clk / (8 * 65536) < baud <= clk / 8`; at 125 MHz,
exactly for 239 to 15625000. -/
def Obligations.InRangeExactlyBetweenBounds : Prop :=
  (∀ (clk : BitVec 32) (baud : Word), baud ≠ 0#32 →
    ((divCalc .exactTrunc clk baud).isInRange = true
      ↔ (clk.toNat : Rat) / (8 * 65536) < (baud.toNat : Rat) ∧ (baud.toNat : Rat) ≤ (clk.toNat : Rat) / 8))
  ∧ ∀ baud : Word, baud ≠ 0#32 →
    ((divCalc .exactTrunc 125000000#32 baud).isInRange = true ↔ 239 ≤ baud.toNat ∧ baud.toNat ≤ 15625000)

/-- 40_divisor R127, its first sentences: `Q <= q < Q + 1/256`, so the produced rate `clk / (8 * Q)` is never below the requested
rate, and above it by a factor less than `1 + 1/(256 * Q)`. -/
def Obligations.QuantizedDivisorIsClose : Prop :=
  ∀ (clk : BitVec 32) (baud : Word) (n : BitVec 16) (f : BitVec 8),
    baud ≠ 0#32 → divCalc .exactTrunc clk baud = .inRange n f →
    let q : Rat := (clk.toNat : Rat) / (8 * (baud.toNat : Rat))
    let Q : Rat := (n.toNat : Rat) + (f.toNat : Rat) / 256
    (DivResult.inRange n f).quantized = some Q
    ∧ Q ≤ q ∧ q < Q + 1 / 256
    ∧ (baud.toNat : Rat) ≤ (clk.toNat : Rat) / (8 * Q)
    ∧ (clk.toNat : Rat) / (8 * Q) < (baud.toNat : Rat) * (1 + 1 / (256 * Q))

/-- 40_divisor R128: in range, a larger baud rate or a smaller clock never gives a larger divisor, in the lexicographic order. -/
def Obligations.DivisorIsMonotone : Prop :=
  ∀ (clk clk' : BitVec 32) (baud baud' : Word) (n n' : BitVec 16) (f f' : BitVec 8),
    baud.toNat ≤ baud'.toNat → clk'.toNat ≤ clk.toNat →
    divCalc .exactTrunc clk baud = .inRange n f → divCalc .exactTrunc clk' baud' = .inRange n' f' →
    n'.toNat < n.toNat ∨ (n'.toNat = n.toNat ∧ f'.toNat ≤ f.toNat)

/-- 30_encoding R95: the DIVCODE layout. -/
def Obligations.DivcodeLayout : Prop :=
  (∀ (n : BitVec 16) (f : BitVec 8),
    divCode (.inRange n f) = (n.setWidth 32 <<< 16) ||| (f.setWidth 32 <<< 8)
    ∧ (divCode (.inRange n f)).extractLsb' 16 16 = n ∧ (divCode (.inRange n f)).extractLsb' 8 8 = f
    ∧ (divCode (.inRange n f)).extractLsb' 0 8 = 0#8)
  ∧ (∀ num den : Nat, divCode (.outOfRange num den) = 0#32)
  ∧ ∀ (arith : DivArith) (clk : BitVec 32) (baud : Word) (n : BitVec 16) (f : BitVec 8),
    divCalc arith clk baud = .inRange n f → 1 ≤ n.toNat ∧ divCode (.inRange n f) ≠ 0#32

/-- 40_divisor R125, R122: DIVCALC with a positive baud rate answers the DIVCODE and writes nothing else; with 0 it faults. Its
corner cases under `exact_trunc`: a rate above `clk / 8`, a quotient of 65536 or more, or a clock of 0 answers 0, and a rate of
exactly `clk / 8` answers `0x00010000`. -/
def Obligations.DivcalcAnswers : Prop :=
  (∀ (baud : Word) (s : State), baud ≠ 0#32 →
    exec (.divcalc baud) s
      = .next { s with port := none, resp := some (divCode (divCalc s.launch.divArith s.launch.sysclk baud)) })
  ∧ (∀ s : State,
    exec (.divcalc 0#32) s
      = .next { s with fault := some (.baudZero (encode (.divcalc 0#32))), port := none, resp := none })
  ∧ ∀ (clk : BitVec 32) (baud : Word), baud ≠ 0#32 →
    (clk.toNat < 8 * baud.toNat → divCode (divCalc .exactTrunc clk baud) = 0#32)
    ∧ (65536 * (8 * baud.toNat) ≤ clk.toNat → divCode (divCalc .exactTrunc clk baud) = 0#32)
    ∧ divCode (divCalc .exactTrunc 0#32 baud) = 0#32
    ∧ (clk.toNat = 8 * baud.toNat → divCode (divCalc .exactTrunc clk baud) = 0x00010000#32)

/-- 40_divisor R124: GETDIV answers the latched divisor and writes nothing else; with none latched it faults. -/
def Obligations.GetdivAnswers : Prop :=
  (∀ (s : State) (d : DivResult), s.div = some d →
    exec .getdiv s = .next { s with port := none, resp := some (divCode d) })
  ∧ ∀ s : State, s.div = none →
    exec .getdiv s = .next { s with fault := some (.notStarted (encode .getdiv)), port := none, resp := none }

/-! ### The channel controller -/

/-- 41_channel_control R140: CONFIG before START with operands in range writes the construction record and nothing else. -/
def Obligations.ConfigRecordsOperands : Prop :=
  ∀ (txPin rxPin : Pin) (rxLane txLane inst : Nat) (s : State),
    s.started = false →
    (∀ n, txPin = .gpio n → n < s.launch.npins) → (∀ n, rxPin = .gpio n → n < s.launch.npins) →
    rxLane < 4 → txLane < 4 → inst < s.launch.ninst →
    exec (.config txPin rxPin rxLane txLane inst) s = .next { s with
      tx := { s.tx with pin := txPin, lane := txLane }
      rx := { s.rx with pin := rxPin, lane := rxLane }
      inst := inst
      port := none
      resp := some 0#32 }

/-- 41_channel_control R140, 60_exceptions R234: CONFIG after START raises `F_CFG_AFTER_START`, whatever its operands; before
START, an operand out of range raises `F_CFG_RANGE`. Neither changes any other state. -/
def Obligations.ConfigFaults : Prop :=
  ∀ (txPin rxPin : Pin) (rxLane txLane inst : Nat) (s : State),
    let i : Instr := .config txPin rxPin rxLane txLane inst
    (s.started = true →
      exec i s = .next { s with fault := some (.cfgAfterStart (encode i)), port := none, resp := none })
    ∧ (s.started = false →
      ((∃ n, txPin = .gpio n ∧ s.launch.npins ≤ n) ∨ (∃ n, rxPin = .gpio n ∧ s.launch.npins ≤ n)
        ∨ 4 ≤ rxLane ∨ 4 ≤ txLane ∨ s.launch.ninst ≤ inst) →
      exec i s = .next { s with fault := some (.cfgRange (encode i)), port := none, resp := none })

/-- 41_channel_control R141, 60_exceptions R234: START's first four faults, in their order; none changes any other state. -/
def Obligations.StartFaultsInOrder : Prop :=
  ∀ (frame : BitVec 16) (baud : Word) (s : State),
    let i : Instr := .start frame baud
    (s.started = true → exec i s = .next { s with fault := some (.restart (encode i)), port := none, resp := none })
    ∧ (s.started = false → baud = 0#32 →
      exec i s = .next { s with fault := some (.baudZero (encode i)), port := none, resp := none })
    ∧ (s.started = false → baud ≠ 0#32 → ∀ p, s.rx.pin = .gpio p → s.tx.pin = .gpio p →
      exec i s = .next { s with fault := some (.pinConflict p), port := none, resp := none })
    ∧ (s.started = false → baud ≠ 0#32 → ∀ r t, s.rx.pin = .gpio r → s.tx.pin = .gpio t → r ≠ t →
      s.rx.lane = s.tx.lane →
      exec i s = .next { s with fault := some (.laneConflict s.rx.lane), port := none, resp := none })

/-- 41_channel_control R141, its first corner case: with both pins UNSET, START only latches the divisor and sets `started`. The
count of draws is the model's own (log 4). -/
def Obligations.StartWithNoPinOnlyLatches : Prop :=
  ∀ (frame : BitVec 16) (baud : Word) (s : State),
    s.started = false → baud ≠ 0#32 → s.rx.pin = .unset → s.tx.pin = .unset →
    ∃ k : Nat, exec (.start frame baud) s = .next { s with
      div := some (divCalc s.launch.divArith s.launch.sysclk baud)
      started := true
      draws := k
      port := none
      resp := some 0#32 }

/-- 41_channel_control R141, R143 with the RX pin alone set: START latches the divisor, writes the RX configuration and nothing
else in the fabric, at some fitting offset, and marks the channel and the block. The count of draws is the model's own (log 4). -/
def Obligations.StartConfiguresRx : Prop :=
  ∀ (frame : BitVec 16) (baud : Word) (s : State) (p : Nat),
    s.started = false → baud ≠ 0#32 → s.rx.pin = .gpio p → s.tx.pin = .unset →
    fits s.fabric.pm s.launch.progMemSize s.inst s.launch.rxProgLen ≠ [] →
    let d := divCalc s.launch.divArith s.launch.sysclk baud
    ∃ (o : Nat) (c : ClkDiv) (f : Fabric) (k : Nat),
      o ∈ fits s.fabric.pm s.launch.progMemSize s.inst s.launch.rxProgLen
      ∧ (∀ n fr, d = .inRange n fr → c = ⟨n, fr⟩)
      ∧ RxFabricWritten s.fabric f s.inst p s.rx.lane o s.launch.rxProgLen c
      ∧ exec (.start frame baud) s = .next { s with
          fabric := f
          div := some d
          started := true
          rx := { s.rx with offset := some o, divisor := some d, enabled := true }
          draws := k
          port := none
          resp := some 0#32 }

/-- 41_channel_control R141, R145 with the TX pin alone set: START latches the divisor, writes the TX configuration and nothing
else in the fabric, at some fitting offset, and marks the channel and the block. The count of draws is the model's own (log 4). -/
def Obligations.StartConfiguresTx : Prop :=
  ∀ (frame : BitVec 16) (baud : Word) (s : State) (p : Nat),
    s.started = false → baud ≠ 0#32 → s.rx.pin = .unset → s.tx.pin = .gpio p →
    fits s.fabric.pm s.launch.progMemSize s.inst s.launch.txProgLen ≠ [] →
    let d := divCalc s.launch.divArith s.launch.sysclk baud
    ∃ (o : Nat) (c : ClkDiv) (f : Fabric) (k : Nat),
      o ∈ fits s.fabric.pm s.launch.progMemSize s.inst s.launch.txProgLen
      ∧ (∀ n fr, d = .inRange n fr → c = ⟨n, fr⟩)
      ∧ TxFabricWritten s.fabric f s.inst p s.tx.lane o s.launch.txProgLen c
      ∧ exec (.start frame baud) s = .next { s with
          fabric := f
          div := some d
          started := true
          tx := { s.tx with offset := some o, divisor := some d, enabled := true }
          draws := k
          port := none
          resp := some 0#32 }

/-- 41_channel_control R141, R156, 10_state R36 with both pins set, different, on different lanes: where the RX program fits, and
the TX program fits wherever the RX program may go, START writes the RX configuration, then the TX configuration, with one
`CLKDIV` for both lanes. The count of draws is the model's own (log 4). -/
def Obligations.StartConfiguresRxThenTx : Prop :=
  ∀ (frame : BitVec 16) (baud : Word) (s : State) (r t : Nat),
    s.started = false → baud ≠ 0#32 → s.rx.pin = .gpio r → s.tx.pin = .gpio t → r ≠ t → s.rx.lane ≠ s.tx.lane →
    fits s.fabric.pm s.launch.progMemSize s.inst s.launch.rxProgLen ≠ [] →
    (∀ o ∈ fits s.fabric.pm s.launch.progMemSize s.inst s.launch.rxProgLen,
      fits (s.fabric.applyAll (slotWrites s.inst .rx o s.launch.rxProgLen)).pm s.launch.progMemSize s.inst
        s.launch.txProgLen ≠ []) →
    let d := divCalc s.launch.divArith s.launch.sysclk baud
    ∃ (o o' : Nat) (c : ClkDiv) (f f' : Fabric) (k : Nat),
      o ∈ fits s.fabric.pm s.launch.progMemSize s.inst s.launch.rxProgLen
      ∧ o' ∈ fits f.pm s.launch.progMemSize s.inst s.launch.txProgLen
      ∧ (∀ n fr, d = .inRange n fr → c = ⟨n, fr⟩)
      ∧ RxFabricWritten s.fabric f s.inst r s.rx.lane o s.launch.rxProgLen c
      ∧ TxFabricWritten f f' s.inst t s.tx.lane o' s.launch.txProgLen c
      ∧ exec (.start frame baud) s = .next { s with
          fabric := f'
          div := some d
          started := true
          rx := { s.rx with offset := some o, divisor := some d, enabled := true }
          tx := { s.tx with offset := some o', divisor := some d, enabled := true }
          draws := k
          port := none
          resp := some 0#32 }

/-- 20_memory R61, 41_channel_control R141: a program that fits nowhere raises `F_PROG_NO_SPACE` for that program, RX first; the
block is then not started. The TX program may have no room from the start, or none left once the RX program is loaded, wherever
that one goes (95_test_vectors CT-18). -/
def Obligations.StartWithoutRoomFaults : Prop :=
  ∀ (frame : BitVec 16) (baud : Word) (s : State),
    s.started = false → baud ≠ 0#32 → s.pinConflict = none → s.laneConflict = none →
    (∀ r, s.rx.pin = .gpio r → fits s.fabric.pm s.launch.progMemSize s.inst s.launch.rxProgLen = [] →
      ∃ u, exec (.start frame baud) s = .next u ∧ u.fault = some (.progNoSpace .rx) ∧ u.started = false
        ∧ u.resp = none ∧ u.rx = s.rx ∧ u.tx = s.tx)
    ∧ (∀ t, s.tx.pin = .gpio t →
        (∀ r, s.rx.pin = .gpio r → fits s.fabric.pm s.launch.progMemSize s.inst s.launch.rxProgLen ≠ []) →
        fits s.fabric.pm s.launch.progMemSize s.inst s.launch.txProgLen = [] →
        ∃ u, exec (.start frame baud) s = .next u ∧ u.fault = some (.progNoSpace .tx) ∧ u.started = false
          ∧ u.resp = none ∧ u.tx = s.tx)
    ∧ (∀ r t, s.rx.pin = .gpio r → s.tx.pin = .gpio t →
        fits s.fabric.pm s.launch.progMemSize s.inst s.launch.rxProgLen ≠ [] →
        (∀ o ∈ fits s.fabric.pm s.launch.progMemSize s.inst s.launch.rxProgLen,
          fits (s.fabric.applyAll (slotWrites s.inst .rx o s.launch.rxProgLen)).pm s.launch.progMemSize s.inst
            s.launch.txProgLen = []) →
        ∃ u, exec (.start frame baud) s = .next u ∧ u.fault = some (.progNoSpace .tx) ∧ u.started = false
          ∧ u.resp = none ∧ u.tx = s.tx)

/-- 41_channel_control R142: every value of FRAME gives the same result; only the command word a fault records differs. -/
def Obligations.FrameIsIgnored : Prop :=
  ∀ (frame frame' : BitVec 16) (baud : Word) (s : State),
    (s.started = false → baud ≠ 0#32 → exec (.start frame baud) s = exec (.start frame' baud) s)
    ∧ ∃ t t', exec (.start frame baud) s = .next t ∧ exec (.start frame' baud) s = .next t'
      ∧ { t with fault := none } = { t' with fault := none }
      ∧ t.fault.map FaultCode.number = t'.fault.map FaultCode.number

/-- 41_channel_control R153, R154: START, even where it faults, writes no lane, FIFO, pin or program memory slot but those of the
channels whose pins are set, in the one instance: a slot it writes was free, and then holds code of the program of such a channel
(R61, R62). -/
def Obligations.StartTouchesOnlySetChannels : Prop :=
  ∀ (frame : BitVec 16) (baud : Word) (s u : State), exec (.start frame baud) s = .next u →
    (∀ i l, ¬(s.rx.pin ≠ .unset ∧ (i, l) = (s.inst, s.rx.lane)) → ¬(s.tx.pin ≠ .unset ∧ (i, l) = (s.inst, s.tx.lane)) →
      u.fabric.laneCfg i l = s.fabric.laneCfg i l
      ∧ Table.get u.fabric.rxf (key i l) = Table.get s.fabric.rxf (key i l)
      ∧ Table.get u.fabric.txf (key i l) = Table.get s.fabric.txf (key i l))
    ∧ (∀ p, s.rx.pin ≠ .gpio p → s.tx.pin ≠ .gpio p →
      Table.get u.fabric.funcsel p = Table.get s.fabric.funcsel p ∧ Table.get u.fabric.pull p = Table.get s.fabric.pull p)
    ∧ (∀ i p, ¬(i = s.inst ∧ (s.rx.pin = .gpio p ∨ s.tx.pin = .gpio p)) →
      Table.get u.fabric.pindir (key i p) = Table.get s.fabric.pindir (key i p)
      ∧ Table.get u.fabric.pinout (key i p) = Table.get s.fabric.pinout (key i p))
    ∧ (∀ i o, i ≠ s.inst → Table.get u.fabric.pm (key i o) = Table.get s.fabric.pm (key i o))
    ∧ ∀ o, Table.get u.fabric.pm (key s.inst o) ≠ Table.get s.fabric.pm (key s.inst o) →
      Table.get s.fabric.pm (key s.inst o) = none
      ∧ ((s.rx.pin ≠ .unset ∧ ∃ b k, Table.get u.fabric.pm (key s.inst o) = some (.code .rx b k))
        ∨ (s.tx.pin ≠ .unset ∧ ∃ b k, Table.get u.fabric.pm (key s.inst o) = some (.code .tx b k)))

/-- 41_channel_control R145, 70_reset_and_hazards R265: ConfigureTX makes its writes in an order in which, whenever the pin has
come to be routed to the instance, its latch is high and its direction is output. -/
def Obligations.TxTakeoverIsGlitchFree : Prop :=
  (∀ (d : DivResult) (c : ClkDiv) (s t : State) (p : Nat), s.tx.pin = .gpio p → configureTx d c s = .ok t →
    ∃ o, t.fabric = s.fabric.applyAll
      (txPinWrites s.inst p ++ slotWrites s.inst .tx o s.launch.txProgLen ++ txLaneWrites s.inst p s.tx.lane o c))
  ∧ ∀ (f : Fabric) (i p l o n : Nat) (c : ClkDiv) (ws : List FabricWrite),
    ws <+: txPinWrites i p ++ slotWrites i .tx o n ++ txLaneWrites i p l o c →
    Table.get f.funcsel p ≠ some (.coproc i) →
    Table.get (f.applyAll ws).funcsel p = some (.coproc i) →
    Table.get (f.applyAll ws).pinout (key i p) = some true ∧ Table.get (f.applyAll ws).pindir (key i p) = some .output

/-- 20_memory R76: ConfigureRX and ConfigureTX make their writes in an order in which a lane that is not enabled before its
configuration is not enabled until the last of the configuration's writes. -/
def Obligations.EnableIsTheLastWrite : Prop :=
  (∀ (d : DivResult) (c : ClkDiv) (s t : State) (p : Nat), s.rx.pin = .gpio p → configureRx d c s = .ok t →
    ∃ o, t.fabric = s.fabric.applyAll
      (rxPinWrites s.inst p ++ slotWrites s.inst .rx o s.launch.rxProgLen ++ rxLaneWrites s.inst p s.rx.lane o c))
  ∧ (∀ (d : DivResult) (c : ClkDiv) (s t : State) (p : Nat), s.tx.pin = .gpio p → configureTx d c s = .ok t →
    ∃ o, t.fabric = s.fabric.applyAll
      (txPinWrites s.inst p ++ slotWrites s.inst .tx o s.launch.txProgLen ++ txLaneWrites s.inst p s.tx.lane o c))
  ∧ (∀ (f : Fabric) (i p l o n : Nat) (c : ClkDiv) (ws : List FabricWrite),
    ws <+: rxPinWrites i p ++ slotWrites i .rx o n ++ rxLaneWrites i p l o c →
    (f.laneCfg i l).en ≠ some true → ((f.applyAll ws).laneCfg i l).en = some true →
    ws = rxPinWrites i p ++ slotWrites i .rx o n ++ rxLaneWrites i p l o c)
  ∧ ∀ (f : Fabric) (i p l o n : Nat) (c : ClkDiv) (ws : List FabricWrite),
    ws <+: txPinWrites i p ++ slotWrites i .tx o n ++ txLaneWrites i p l o c →
    (f.laneCfg i l).en ≠ some true → ((f.applyAll ws).laneCfg i l).en = some true →
    ws = txPinWrites i p ++ slotWrites i .tx o n ++ txLaneWrites i p l o c

/-- 20_memory R61, 95_test_vectors CT-4: after a START that enabled both channels, each program stands in program memory from
its channel's offset on, inside the memory, and the two ranges do not overlap. -/
def Obligations.ProgramsAreLoadedApart : Prop :=
  ∀ (frame : BitVec 16) (baud : Word) (s u : State) (r t : Nat),
    launchSound s.launch = true → s.started = false → s.rx.pin = .gpio r → s.tx.pin = .gpio t →
    exec (.start frame baud) s = .next u → u.started = true →
    ∃ o o', u.rx.offset = some o ∧ u.tx.offset = some o'
      ∧ o + s.launch.rxProgLen ≤ s.launch.progMemSize ∧ o' + s.launch.txProgLen ≤ s.launch.progMemSize
      ∧ (o + s.launch.rxProgLen ≤ o' ∨ o' + s.launch.txProgLen ≤ o)
      ∧ (∀ k < s.launch.rxProgLen, Table.get u.fabric.pm (key s.inst (o + k)) = some (.code .rx o k))
      ∧ (∀ k < s.launch.txProgLen, Table.get u.fabric.pm (key s.inst (o' + k)) = some (.code .tx o' k))

/-- 41_channel_control R150, R151, 42_stream R186, R187, 10_state R27: STOP, END and FLUSH answer 0 and READY answers 1, in every
state, and they change nothing else. -/
def Obligations.ConstantCommandsAnswer : Prop :=
  ∀ s : State,
    exec .stop s = .next { s with port := none, resp := some 0#32 }
    ∧ exec .endCmd s = .next { s with port := none, resp := some 0#32 }
    ∧ exec .flush s = .next { s with port := none, resp := some 0#32 }
    ∧ exec .ready s = .next { s with port := none, resp := some 1#32 }

/-- 41_channel_control R152, 30_encoding R96: GETCHAN answers the CHANREC of the channel selected, in every state, and changes
nothing else; the CHANREC layout. That a field holds the low bits of a number too large for it is the model's choice (log 25). -/
def Obligations.GetchanAnswers : Prop :=
  (∀ s : State,
    exec (.getchan .rx) s = .next { s with port := none, resp := some (chanRec s.rx) }
    ∧ exec (.getchan .tx) s = .next { s with port := none, resp := some (chanRec s.tx) })
  ∧ ∀ ch : Channel,
    (chanRec ch).extractLsb' 0 8 = (match ch.pin with | .unset => 0xFF#8 | .gpio n => BitVec.ofNat 8 n)
    ∧ (chanRec ch).extractLsb' 8 4 = BitVec.ofNat 4 ch.lane
    ∧ (chanRec ch).extractLsb' 12 8 = (match ch.offset with | none => 0xFF#8 | some o => BitVec.ofNat 8 o)
    ∧ (chanRec ch).extractLsb' 20 11 = 0#11
    ∧ (chanRec ch).getLsbD 31 = ch.enabled

/-! ### The stream port -/

/-- 42_stream R180, R181, 20_memory R63, R67: the extractor takes the most-significant byte, `w[31:24]`, and no other bit; a byte
answer lies in 0..255, and no byte answer is the "no data" answer. -/
def Obligations.ExtractTakesTheTopByte : Prop :=
  (∀ (w : Word) (k : Nat), k < 8 → (extract w).getLsbD k = w.getLsbD (24 + k))
  ∧ (∀ (b : Byte) (low : BitVec 24), extract (b ++ low) = b)
  ∧ ∀ b : Byte, (zextByte b).toNat = b.toNat ∧ (zextByte b).toNat ≤ 255 ∧ zextByte b ≠ minusOne ∧ minusOne.toInt = -1

/-- 42_stream R182: AVAILABLE on an enabled channel answers the number of words in the RX FIFO and changes nothing else. The answer
for `2^32` words or more, the low 32 bits, is the model's choice (log 29). -/
def Obligations.AvailableCountsWords : Prop :=
  ∀ s : State, s.rx.enabled = true →
    exec .available s = .next { s with port := none, resp := some (BitVec.ofNat 32 s.rxq.length) }

/-- 42_stream R183: PEEK on an enabled channel, its three cases: the cached byte; −1 with cache and FIFO empty; else it pops the
oldest word, caches its byte and answers it. Nothing else changes. -/
def Obligations.PeekAnswers : Prop :=
  ∀ s : State, s.rx.enabled = true →
    (∀ b, s.peek = some b → exec .peek s = .next { s with port := none, resp := some (b.setWidth 32) })
    ∧ (s.peek = none → s.rxq = [] → exec .peek s = .next { s with port := none, resp := some 0xFFFFFFFF#32 })
    ∧ (∀ w q, s.peek = none → s.rxq = w :: q →
      exec .peek s = .next { s.setRxq q with
        peek := some (w.extractLsb' 24 8), port := none, resp := some ((w.extractLsb' 24 8).setWidth 32) })

/-- 42_stream R184: READ on an enabled channel, its three cases: it drains the cache and leaves the FIFO alone; −1 with cache and
FIFO empty; else it pops the oldest word and answers its byte. Nothing else changes. -/
def Obligations.ReadAnswers : Prop :=
  ∀ s : State, s.rx.enabled = true →
    (∀ b, s.peek = some b → exec .read s = .next { s with peek := none, port := none, resp := some (b.setWidth 32) })
    ∧ (s.peek = none → s.rxq = [] → exec .read s = .next { s with port := none, resp := some 0xFFFFFFFF#32 })
    ∧ (∀ w q, s.peek = none → s.rxq = w :: q →
      exec .read s = .next { s.setRxq q with port := none, resp := some ((w.extractLsb' 24 8).setWidth 32) })

/-- 42_stream R182 to R185: a stream command on a direction that was never configured faults, with the command recorded, and
changes no other state; a WRITE then never holds. -/
def Obligations.UnconfiguredStreamFaults : Prop :=
  ∀ s : State,
    (s.rx.enabled = false →
      exec .available s = .next { s with fault := some (.rxUnconfigured (encode .available)), port := none, resp := none }
      ∧ exec .peek s = .next { s with fault := some (.rxUnconfigured (encode .peek)), port := none, resp := none }
      ∧ exec .read s = .next { s with fault := some (.rxUnconfigured (encode .read)), port := none, resp := none })
    ∧ (s.tx.enabled = false → ∀ b,
      exec (.write b) s = .next { s with fault := some (.txUnconfigured (encode (.write b))), port := none, resp := none })

/-- 42_stream R185, R193, 20_memory R64, 60_exceptions R240: WRITE with room appends `zext_32(BYTE)` to the TX FIFO, answers 1, and
changes nothing else. With a full TX FIFO it holds: nothing changes, and the command stays pending. The spec marks R64's layout as
general knowledge (log 24). -/
def Obligations.WriteAppendsOrHolds : Prop :=
  ∀ (b : Byte) (s : State), s.tx.enabled = true →
    (s.txq.length ≠ s.txCap →
      exec (.write b) s = .next { s.setTxq (s.txq ++ [b.setWidth 32]) with port := none, resp := some 1#32 })
    ∧ (s.txq.length = s.txCap → exec (.write b) s = .next s)
    ∧ (s.setTxq (s.txq ++ [b.setWidth 32])).txq = s.txq ++ [b.setWidth 32]
    ∧ (b.setWidth 32 : Word).extractLsb' 0 8 = b ∧ (b.setWidth 32 : Word).extractLsb' 8 24 = 0#24

/-- 42_stream R188: a second PEEK in a row answers the same and changes nothing, the FIFO count included. With a push in between
the answer and the FIFO are still the same, but where the first PEEK found the cache and the FIFO empty: there the second answers
the byte pushed. -/
def Obligations.SecondPeekChangesNothing : Prop :=
  (∀ s t : State, s.rx.enabled = true → exec .peek s = .next t → exec .peek t = .next t)
  ∧ ∀ (s t : State) (line : BitVec 10) (low : BitVec 24),
    s.rx.enabled = true → exec .peek s = .next t →
    ((s.peek ≠ none ∨ s.rxq ≠ []) →
      ∃ u, exec .peek (rxPush line low t) = .next u ∧ u.resp = t.resp ∧ u.rxq = (rxPush line low t).rxq)
    ∧ (s.peek = none → s.rxq = [] → 1 ≤ s.launch.fifoDepth →
      ∃ u b, exec .peek (rxPush line low t) = .next u ∧ u.resp = some (zextByte b) ∧ u.resp ≠ t.resp)

/-- 42_stream R189: a READ after a PEEK that answered a byte answers that byte, empties the cache and leaves the FIFO alone, and a
PEEK in between answers the byte too; the next READ answers from the FIFO, or −1. -/
def Obligations.ReadAfterPeekAnswersThePeek : Prop :=
  ∀ (s t : State) (b : Byte), s.rx.enabled = true → exec .peek s = .next t → t.peek = some b →
    t.resp = some (b.setWidth 32) ∧ exec .peek t = .next t
    ∧ ∃ u, exec .read t = .next u ∧ u.resp = some (b.setWidth 32) ∧ u.peek = none ∧ u.rxq = t.rxq
      ∧ ∃ v, exec .read u = .next v
        ∧ v.resp = some (match t.rxq with | [] => minusOne | w :: _ => zextByte (extract w))

/-- 42_stream R190: on an enabled RX channel with cache and FIFO empty, after the START, READ and PEEK answer −1 and AVAILABLE
answers 0, and every command and every TX lane step leaves the channel so: without an RX push, for ever. -/
def Obligations.EmptyChannelStaysEmpty : Prop :=
  ∀ s : State, s.started = true → s.rx.enabled = true → s.peek = none → s.rxq = [] →
    (∀ (i : Instr) (t : State), exec i s = .next t →
      (t.started = true ∧ t.rx.enabled = true ∧ t.peek = none ∧ t.rxq = [])
      ∧ (i = .read ∨ i = .peek → t.resp = some 0xFFFFFFFF#32) ∧ (i = .available → t.resp = some 0#32))
    ∧ ((txPop s).started = true ∧ (txPop s).rx.enabled = true ∧ (txPop s).peek = none ∧ (txPop s).rxq = [])

/-- 42_stream R192: the cache gains a byte only by PEEK and loses one only by READ; no other command and no lane step changes
it. -/
def Obligations.CacheIsFilledByPeekAndDrainedByRead : Prop :=
  (∀ (i : Instr) (s t : State), exec i s = .next t →
    (i ≠ .peek → i ≠ .read → t.peek = s.peek)
    ∧ (i = .peek → t.peek = s.peek ∨ (s.peek = none ∧ t.peek ≠ none))
    ∧ (i = .read → t.peek = s.peek ∨ t.peek = none))
  ∧ (∀ (line : BitVec 10) (low : BitVec 24) (s : State), (rxPush line low s).peek = s.peek)
  ∧ ∀ s : State, (txPop s).peek = s.peek

/-! ### The lanes -/

/-- 43_lane_contract R210, R211: an RX push with room appends one word whose top byte is the frame's data byte, when timing is
valid and the line carried a well-formed frame: data bit `k` of the frame is bit `24 + k` of the word, and the low bits are those
of the push. Without that the top byte is free. The bit order is R66's, which the spec marks as general knowledge (log 14). -/
def Obligations.RxPushAppendsFrameByte : Prop :=
  ∀ (line : BitVec 10) (low : BitVec 24) (s : State),
    s.rx.enabled = true → s.rxq.length < 2 * s.launch.fifoDepth →
    ∃ w : Word, (rxPush line low s).rxq = s.rxq ++ [w] ∧ w.setWidth 24 = low
      ∧ (s.timingValid = true → line.getLsbD 0 = false → line.getLsbD 9 = true →
        ∀ k < 8, w.getLsbD (24 + k) = line.getLsbD (1 + k))

/-- 43_lane_contract R212, R211: an RX push to a full FIFO leaves the count at the capacity; under `drop_newest` the FIFO stays as it
is, and under `drop_oldest` it loses the oldest word and gains the word of the push, whose top byte is the frame's data byte when
timing is valid and the line carried a well-formed frame (bit order: R66, log 14). The depth of at least 1 is a premise (log 30). -/
def Obligations.OverrunFollowsThePolicy : Prop :=
  ∀ (line : BitVec 10) (low : BitVec 24) (s : State),
    1 ≤ s.launch.fifoDepth → s.rx.enabled = true → s.rxq.length = 2 * s.launch.fifoDepth →
    (rxPush line low s).rxq.length = 2 * s.launch.fifoDepth
    ∧ (s.launch.overrunPolicy = .always .dropNewest → (rxPush line low s).rxq = s.rxq)
    ∧ (s.launch.overrunPolicy = .always .dropOldest →
      (rxPush line low s).rxq = s.rxq.tail ++ [rxByte line s ++ low])
    ∧ (s.timingValid = true → line.getLsbD 0 = false → line.getLsbD 9 = true →
      ∀ k < 8, (rxByte line s).getLsbD k = line.getLsbD (1 + k))

/-- 43_lane_contract R214, R216: a TX pop takes the oldest word and appends its low byte to the line history; with the FIFO empty
it changes nothing. That nothing else changes, `PINOUT` of the TX pin included, is the model's choice: R32 and R218 let the TX lane
drive that pin, and the model keeps it at the idle level (log 13). -/
def Obligations.TxPopSendsTheOldestByte : Prop :=
  ∀ s : State, s.tx.enabled = true →
    (s.txq = [] → txPop s = s)
    ∧ ∀ w q, s.txq = w :: q →
      txPop s = { s.setTxq q with lineTx := s.lineTx ++ [w.extractLsb' 0 8] } ∧ (txPop s).txq = q

/-- 43_lane_contract R214, 20_memory R66: the frame of a byte is a low start bit, the data bits least-significant first, and a
high stop bit; the RX side reads the byte back from it. The bit order is R66's, which the spec marks as general knowledge
(log 14). -/
def Obligations.FrameCarriesTheByte : Prop :=
  ∀ b : Byte,
    (frameOf b).getLsbD 0 = false ∧ (∀ k < 8, (frameOf b).getLsbD (1 + k) = b.getLsbD k) ∧ (frameOf b).getLsbD 9 = true
    ∧ frameOk (frameOf b) = true ∧ frameByte (frameOf b) = b

/-- 43_lane_contract R218: a lane step writes only its FIFO and the line history (and the model's count of draws, log 4); the
channels, the divisor, the cache, the flags, the port and the rest of the fabric stay. R218 also lets a lane step write the pin it
drives: that `PINOUT` and `LC.PC` stay is the model's choice (log 13, log 12). -/
def Obligations.LaneStepsWriteOnlyFifoAndLine : Prop :=
  ∀ s : State,
    (∀ (line : BitVec 10) (low : BitVec 24), ∃ q k,
      rxPush line low s = { s with fabric := { s.fabric with rxf := q }, draws := k }
      ∧ ∀ j, j ≠ s.rxKey → Table.get q j = Table.get s.fabric.rxf j)
    ∧ ∃ q h, txPop s = { s with fabric := { s.fabric with txf := q }, lineTx := h }
      ∧ ∀ j, j ≠ s.txKey → Table.get q j = Table.get s.fabric.txf j

/-- 43_lane_contract R219, 10_state R24: in a state that meets the block invariant, a channel whose pin is UNSET has no lane step,
and before a START no lane has one: the model lets such a turn pass and changes nothing (log 15). -/
def Obligations.IdleChannelsHaveNoLaneStep : Prop :=
  ∀ (s : State) (line : BitVec 10) (low : BitVec 24), s.blockInv →
    (s.rx.pin = .unset ∨ (s.fault = none ∧ s.started = false) → rxPush line low s = s)
    ∧ (s.tx.pin = .unset ∨ (s.fault = none ∧ s.started = false) → txPop s = s)

/-- 20_memory R77: no lane step removes a word from an RX FIFO that is within its capacity, at a depth of at least 1 (log 30). -/
def Obligations.LaneStepsNeverShrinkRx : Prop :=
  ∀ (s : State) (line : BitVec 10) (low : BitVec 24),
    1 ≤ s.launch.fifoDepth → s.rxq.length ≤ 2 * s.launch.fifoDepth →
    s.rxq.length ≤ (rxPush line low s).rxq.length ∧ (rxPush line low s).rxq.length ≤ 2 * s.launch.fifoDepth
    ∧ (txPop s).rxq = s.rxq

/-- 42_stream R194: bytes sent round a wire from the TX pin to the RX pin of one block with valid timing, no more than the RX FIFO
holds, come back from READ in order. -/
def Obligations.LoopbackRoundTrip : Prop :=
  ∀ (bs : List (Byte × BitVec 24)) (s : State),
    s.rx.enabled = true → s.tx.enabled = true → s.timingValid = true → s.peek = none → s.rxq = [] → s.txq = [] →
    0 < s.txCap → bs.length ≤ 2 * s.launch.fifoDepth →
    readMany bs.length (loopBytes bs s) = bs.map (fun e => e.1.setWidth 32)
    ∧ (loopBytes bs s).lineTx = s.lineTx ++ bs.map (fun e => e.1)

/-! ### The machine -/

/-- 30_encoding R90, R98, 20_memory R73, R74: on the host's turn, a pending word, or the next word of the sequence, is run: as the
command it decodes to, or as a word that is no command (what that does: IllegalOpcodeFaults, ReservedBitFaults). On a turn of a lane,
that lane takes its step. The turn is used up. The model's choices are the list of turns (log 2), whose turn it is once it has ended
(log 3), that accepting a word empties the response (log 8), and that a lane with no step lets its turn pass (log 15). -/
def Obligations.StepRunsTheDecodedCommand : Prop :=
  (∀ (s : State) (ts : List Turn) (w : Cmd) (ws : List Cmd) (i : Instr),
    s.fault = none → decode w = .ok i →
    s.turns = .host :: ts ∨ (s.turns = [] ∧ ts = [] ∧ (s.hostWaits && s.txFair) = false) →
    (s.port = some w → step s = exec i { s with turns := ts })
    ∧ (s.port = none → s.cmds = w :: ws →
      step s = exec i { s with turns := ts, cmds := ws, port := some w, resp := none }))
  ∧ (∀ (s : State) (ts : List Turn) (w : Cmd) (ws : List Cmd),
    s.fault = none →
    s.turns = .host :: ts ∨ (s.turns = [] ∧ ts = [] ∧ (s.hostWaits && s.txFair) = false) →
    (s.port = some w → step s = runCommand w { s with turns := ts })
    ∧ (s.port = none → s.cmds = w :: ws →
      step s = runCommand w { s with turns := ts, cmds := ws, port := some w, resp := none }))
  ∧ (∀ (s : State) (ts : List Turn) (line : BitVec 10) (low : BitVec 24),
    s.fault = none → s.turns = .rxPush line low :: ts → step s = .next (rxPush line low { s with turns := ts }))
  ∧ ∀ (s : State) (ts : List Turn),
    s.fault = none → s.turns = .txPop :: ts → step s = .next (txPop { s with turns := ts })

/-- 60_exceptions R231, R237: the faulted state has no successor, which shows as the outcome `fault` of a step from it (log 7). That
every unfaulted state has one is the model's choice: where R12 and R240 give an agent no step (a host that holds or has ended, a
lane with nothing to do), its turn passes (log 11, log 15). -/
def Obligations.FaultedStateIsFinal : Prop :=
  ∀ s : State,
    (∀ c, s.fault = some c → step s = .fault (.faulted c))
    ∧ (s.fault = none → ∃ t, step s = .next t)

/-- 60_exceptions R231: every fault of a command except `F_PROG_NO_SPACE` is raised before the command writes any state, and no
faulting command responds. -/
def Obligations.FaultsComeBeforeWrites : Prop :=
  ∀ (i : Instr) (s t : State) (c : FaultCode), s.fault = none → exec i s = .next t → t.fault = some c →
    t.resp = none ∧ t.port = none
    ∧ ((∀ p, c ≠ .progNoSpace p) → t = { s with fault := some c, port := none, resp := none })

/-- 60_exceptions R240, 43_lane_contract R217, 70_reset_and_hazards R270, R277 (c): a WRITE that holds with the schedule ended
completes in two steps under valid timing, since the TX lane sends the oldest byte and the WRITE then answers 1; without valid
timing it holds for ever. That the TX lane moves at once when the schedule has ended is the model's choice (log 3). -/
def Obligations.HeldWriteUnderFairness : Prop :=
  ∀ (s : State) (b : Byte),
    s.fault = none → s.turns = [] → s.tx.enabled = true → s.port = some (encode (.write b)) → s.txq.length = s.txCap →
    (∀ (w : Word) (q : List Word), s.timingValid = true → s.txq = w :: q →
      ∃ t u, step s = .next t ∧ t.lineTx = s.lineTx ++ [w.extractLsb' 0 8] ∧ step t = .next u
        ∧ u.resp = some 1#32 ∧ u.port = none ∧ u.txq = q ++ [b.setWidth 32])
    ∧ (s.timingValid = false → step s = .next s)

/-- 70_reset_and_hazards R260: the reset state of a launch: every field at the value the rule gives, the fabric unowned, and every
slot of program memory free except those of `PM_USED`. -/
def Obligations.ResetLeavesTheSpecifiedState : Prop :=
  State.reset = State.resetAt Config.launch
  ∧ ∀ l : Launch,
    let s := State.resetAt l
    (s.tx.pin = .unset ∧ s.rx.pin = .unset ∧ s.rx.lane = 0 ∧ s.tx.lane = 1 ∧ s.inst = 0)
    ∧ (s.rx.offset = none ∧ s.tx.offset = none ∧ s.rx.divisor = none ∧ s.tx.divisor = none)
    ∧ (s.rx.enabled = false ∧ s.tx.enabled = false ∧ s.started = false ∧ s.div = none ∧ s.peek = none ∧ s.fault = none)
    ∧ s.lineTx = []
    ∧ (∀ i n, s.fabric.laneCfg i n = LaneCfg.unowned ∧ Table.get s.fabric.rxf (key i n) = none
      ∧ Table.get s.fabric.txf (key i n) = none ∧ Table.get s.fabric.pindir (key i n) = none
      ∧ Table.get s.fabric.pinout (key i n) = none)
    ∧ (∀ p, Table.get s.fabric.funcsel p = none ∧ Table.get s.fabric.pull p = none)
    ∧ ∀ i o, Table.get s.fabric.pm (key i o) = if (i, o) ∈ l.pmUsed then some .foreign else none

/-- The five invariants hold at reset (70_reset_and_hazards R260). -/
def Obligations.InvariantsHoldAtReset : Prop :=
  State.reset.blockInv ∧ State.reset.recordInv ∧ State.reset.fifoInv ∧ State.reset.configuredInv
    ∧ State.reset.fabric.wf = true

/-- 10_state R24, R25, R28: every step keeps the block invariant: a channel whose pin is UNSET is not configured, an enabled channel
has the latched divisor, and nothing is configured before a START succeeds. Every step keeps the construction record legal. -/
def Obligations.StepKeepsBlockInvariant : Prop :=
  ∀ s t : State, step s = .next t → (s.blockInv → t.blockInv) ∧ (s.recordInv → t.recordInv)

/-- 10_state R33, 41_channel_control R148: every step keeps the enabled lanes' FIFOs owned, joined and within their
capacity, on a launch whose depth is at least 1 (log 30). -/
def Obligations.StepKeepsFifosWithinCapacity : Prop :=
  ∀ s t : State, s.fifoInv → step s = .next t → t.fifoInv

/-- 41_channel_control R146, R147, R149, 43_lane_contract R220, 10_state R36: every step keeps each enabled lane and its pin as its
configuration left them. That `PINOUT` of an enabled TX pin stays at its idle
level and `LC.PC` at the program offset while the lane runs is the model's choice (log 13, log 12), since R32 has the TX lane drive
that pin. -/
def Obligations.StepKeepsConfiguration : Prop :=
  ∀ s t : State, s.configuredInv → step s = .next t → t.configuredInv

/-- 20_memory R60: every step keeps every index space of the fabric in canonical form, the model's own form for it. -/
def Obligations.StepKeepsFabricCanonical : Prop :=
  ∀ s t : State, s.fabric.wf = true → step s = .next t → t.fabric.wf = true

/-- 10_state R23, R26, R29, 43_lane_contract R220, 70_reset_and_hazards R271: `started` and the enabled flags are never cleared,
and after a START the channels and the latched divisor never change. -/
def Obligations.StartIsNeverUndone : Prop :=
  ∀ s t : State, step s = .next t →
    (s.started = true → t.started = true ∧ t.rx = s.rx ∧ t.tx = s.tx ∧ t.inst = s.inst ∧ t.div = s.div)
    ∧ (s.rx.enabled = true → t.rx.enabled = true) ∧ (s.tx.enabled = true → t.tx.enabled = true)

/-- 20_memory R62, R80: no step changes or frees a used slot of program memory. -/
def Obligations.UsedSlotsAreNeverWritten : Prop :=
  ∀ (s t : State) (k : Nat) (v : Slot), step s = .next t → Table.get s.fabric.pm k = some v →
    Table.get t.fabric.pm k = some v

/-- 10_state R42, 60_exceptions R243: a step appends to the line history only the low byte of the oldest TX word, and changes no
launch premise. -/
def Obligations.LineAndLaunchUnderAStep : Prop :=
  ∀ s t : State, step s = .next t →
    t.launch = s.launch
    ∧ (t.lineTx = s.lineTx
      ∨ ∃ w q, s.tx.enabled = true ∧ s.txq = w :: q ∧ t.txq = q ∧ t.lineTx = s.lineTx ++ [w.extractLsb' 0 8])
end

