-- ==== Sys2Proof/Laws/Decode.lean ====
section
/-! SUPPORT. The small laws of the encoding: the opcode byte and the operand area of an encoded command, the fields of each
format, and the opcode map. -/

namespace Sys2Proof

/-- A bit of an encoded command lies in the operand area or in the opcode (R91). -/
theorem getLsbD_encode (i : Instr) (k : Nat) :
    (encode i).getLsbD k = if k < 56 then (operandBits i).getLsbD k else i.op.opc.getLsbD (k - 56) :=
  BitVec.getLsbD_append

/-- The opcode byte of an encoded command (R91). -/
theorem opcOf_encode (i : Instr) : opcOf (encode i) = i.op.opc :=
  BitVec.extractLsb'_append_eq_left

/-- A field of an encoded command is that field of its operand area (R91). -/
theorem extractLsb'_encode (i : Instr) {start len : Nat} (h : start + len ≤ 56) :
    (encode i).extractLsb' start len = (operandBits i).extractLsb' start len := by
  apply BitVec.eq_of_getLsbD_eq
  intro k hk
  simp only [BitVec.getLsbD_extractLsb', getLsbD_encode]
  rw [if_pos (by omega)]

/-- The opcode bytes of the map are distinct, and each leads back to its row (R97). -/
theorem ofOpc_opc (op : Op) : Op.ofOpc op.opc = some op := by
  cases op <;> decide

theorem opc_of_ofOpc {b : BitVec 8} {op : Op} (h : Op.ofOpc b = some op) : op.opc = b := by
  have := List.find?_some h
  simpa using this

theorem mem_all (op : Op) : op ∈ Op.all := by
  cases op <;> decide

/-- The mask of a row and its opcode cover the whole opcode byte and no operand field it reads (R97). -/
theorem matchWord_reserved (op : Op) : op.matchWord &&& operandArea = 0#64 := by
  cases op <;> decide

theorem mask_opc (op : Op) : op.mask = 0xFF00000000000000#64 ||| (op.mask &&& operandArea) := by
  cases op <;> decide

/-- A well-formed pin survives its field (R93). -/
theorem pinOfField_pinField {p : Pin} (h : p.wellFormed = true) : pinOfField (pinField p) = p := by
  cases p with
  | unset => rfl
  | gpio n =>
    simp only [Pin.wellFormed, decide_eq_true_eq] at h
    have hne : ¬BitVec.ofNat 8 n = unsetCode := by
      intro hc
      have := congrArg BitVec.toNat hc
      simp [unsetCode] at this
      omega
    simp only [pinField, pinOfField, if_neg hne, BitVec.toNat_ofNat, Pin.gpio.injEq]
    omega

/-- Every pin a field reads is well-formed, and is written back as the field (R93). -/
theorem pinField_pinOfField (v : BitVec 8) : pinField (pinOfField v) = v ∧ (pinOfField v).wellFormed = true := by
  unfold pinOfField
  split
  · next h => exact ⟨h.symm, rfl⟩
  · next h =>
    refine ⟨by simp [pinField], ?_⟩
    have : v.toNat ≠ 255 := fun hc => h (BitVec.eq_of_toNat_eq (by simpa [unsetCode] using hc))
    have := v.isLt
    simp only [Pin.wellFormed, decide_eq_true_eq]
    omega

theorem dirOfField_dirField (d : Dir) : dirOfField (dirField d) = d := by
  cases d <;> rfl

theorem dirField_dirOfField (v : BitVec 1) : dirField (dirOfField v) = v := by
  revert v; decide

/-! ### The fields of each format (R92) -/

section
variable (txPin rxPin : Pin) (rxLane txLane inst : Nat)

theorem config_txp : (operandBits (.config txPin rxPin rxLane txLane inst)).extractLsb' 0 8 = pinField txPin :=
  BitVec.extractLsb'_append_eq_right

theorem config_rxp : (operandBits (.config txPin rxPin rxLane txLane inst)).extractLsb' 8 8 = pinField rxPin :=
  (BitVec.extractLsb'_append_eq_of_le (by decide)).trans BitVec.extractLsb'_append_eq_right

theorem config_rxl : (operandBits (.config txPin rxPin rxLane txLane inst)).extractLsb' 16 4 = BitVec.ofNat 4 rxLane :=
  (BitVec.extractLsb'_append_eq_of_le (by decide)).trans
    ((BitVec.extractLsb'_append_eq_of_le (by decide)).trans BitVec.extractLsb'_append_eq_right)

theorem config_txl : (operandBits (.config txPin rxPin rxLane txLane inst)).extractLsb' 20 4 = BitVec.ofNat 4 txLane :=
  (BitVec.extractLsb'_append_eq_of_le (by decide)).trans
    ((BitVec.extractLsb'_append_eq_of_le (by decide)).trans
      ((BitVec.extractLsb'_append_eq_of_le (by decide)).trans BitVec.extractLsb'_append_eq_right))

theorem config_ins : (operandBits (.config txPin rxPin rxLane txLane inst)).extractLsb' 24 4 = BitVec.ofNat 4 inst :=
  (BitVec.extractLsb'_append_eq_of_le (by decide)).trans
    ((BitVec.extractLsb'_append_eq_of_le (by decide)).trans
      ((BitVec.extractLsb'_append_eq_of_le (by decide)).trans
        ((BitVec.extractLsb'_append_eq_of_le (by decide)).trans BitVec.extractLsb'_append_eq_right)))

theorem config_res : (operandBits (.config txPin rxPin rxLane txLane inst)).extractLsb' 28 28 = 0#28 :=
  (BitVec.extractLsb'_append_eq_of_le (by decide)).trans
    ((BitVec.extractLsb'_append_eq_of_le (by decide)).trans
      ((BitVec.extractLsb'_append_eq_of_le (by decide)).trans
        ((BitVec.extractLsb'_append_eq_of_le (by decide)).trans BitVec.extractLsb'_append_eq_left)))

end

theorem start_baud (frame : BitVec 16) (baud : Word) : (operandBits (.start frame baud)).extractLsb' 0 32 = baud :=
  BitVec.extractLsb'_append_eq_right

theorem start_frame (frame : BitVec 16) (baud : Word) : (operandBits (.start frame baud)).extractLsb' 32 16 = frame :=
  (BitVec.extractLsb'_append_eq_of_le (by decide)).trans BitVec.extractLsb'_append_eq_right

theorem start_res (frame : BitVec 16) (baud : Word) : (operandBits (.start frame baud)).extractLsb' 48 8 = 0#8 :=
  (BitVec.extractLsb'_append_eq_of_le (by decide)).trans BitVec.extractLsb'_append_eq_left

theorem write_byte (byte : Byte) : (operandBits (.write byte)).extractLsb' 0 8 = byte :=
  BitVec.extractLsb'_append_eq_right

theorem write_res (byte : Byte) : (operandBits (.write byte)).extractLsb' 8 48 = 0#48 :=
  BitVec.extractLsb'_append_eq_left

theorem divcalc_baud (baud : Word) : (operandBits (.divcalc baud)).extractLsb' 0 32 = baud :=
  BitVec.extractLsb'_append_eq_right

theorem divcalc_res (baud : Word) : (operandBits (.divcalc baud)).extractLsb' 32 24 = 0#24 :=
  BitVec.extractLsb'_append_eq_left

theorem getchan_dir (dir : Dir) : (operandBits (.getchan dir)).extractLsb' 0 1 = dirField dir :=
  BitVec.extractLsb'_append_eq_right

theorem getchan_res (dir : Dir) : (operandBits (.getchan dir)).extractLsb' 1 55 = 0#55 :=
  BitVec.extractLsb'_append_eq_left

/-! ### The match and mask columns (R97) -/

/-- How many low bits of a row's command word are operand bits (R92). -/
def operandWidth : Op → Nat
  | .config => 28
  | .start => 48
  | .write => 8
  | .divcalc => 32
  | .getchan => 1
  | _ => 0

theorem operandWidth_le (op : Op) : operandWidth op ≤ 56 := by
  cases op <;> decide

/-- The mask of a row is every bit above its operands (R97). -/
theorem getLsbD_mask (op : Op) (k : Nat) : op.mask.getLsbD k = decide (operandWidth op ≤ k ∧ k < 64) := by
  by_cases h : k < 64
  · have : ∀ k : Fin 64, op.mask.getLsbD k = decide (operandWidth op ≤ k.val ∧ k.val < 64) := by
      cases op <;> decide
    exact this ⟨k, h⟩
  · rw [BitVec.getLsbD_of_ge _ _ (by omega)]
    simp only [Bool.false_eq, decide_eq_false_iff_not]
    omega

theorem getLsbD_matchWord (op : Op) (k : Nat) :
    op.matchWord.getLsbD k = if k < 56 then false else op.opc.getLsbD (k - 56) := by
  have h : op.matchWord.getLsbD k = if k < 56 then (0#56).getLsbD k else op.opc.getLsbD (k - 56) :=
    BitVec.getLsbD_append
  rw [h]
  simp

/-- A command whose operand area is zero above its operands is selected by its row (R97). -/
theorem encode_and_mask (i : Instr)
    (hr : (operandBits i).extractLsb' (operandWidth i.op) (56 - operandWidth i.op) = 0#(56 - operandWidth i.op)) :
    encode i &&& i.op.mask = i.op.matchWord := by
  have hw := operandWidth_le i.op
  apply BitVec.eq_of_getLsbD_eq
  intro k hk
  rw [BitVec.getLsbD_and, getLsbD_encode, getLsbD_mask, getLsbD_matchWord]
  by_cases h56 : k < 56
  · rw [if_pos h56, if_pos h56]
    by_cases hwk : operandWidth i.op ≤ k
    · have h := congrArg (fun b => b.getLsbD (k - operandWidth i.op)) hr
      simp only [BitVec.getLsbD_extractLsb'] at h
      rw [show operandWidth i.op + (k - operandWidth i.op) = k by omega] at h
      simp only [show k - operandWidth i.op < 56 - operandWidth i.op by omega, decide_true, Bool.true_and] at h
      rw [h]
      simp
    · simp [hwk]
  · rw [if_neg h56, if_neg h56]
    simp only [show operandWidth i.op ≤ k by omega, hk, and_self, decide_true, Bool.and_true]

end Sys2Proof
end

