-- ==== Sys2Proof/Laws/Table.lean ====
section
/-! SUPPORT. The laws of the sparse tables: read after write, the canonical form kept, and equal reads of canonical tables
meaning equal tables. -/

namespace Sys2Proof.Machine

variable {α : Type}

@[simp] theorem key_inj (i j i' j' : Nat) : key i j = key i' j' ↔ i = i' ∧ j = j' := by
  simp [key, Nat.pair_eq_pair]

@[simp] theorem Table.get_nil (k : Nat) : Table.get ([] : Table α) k = none := rfl

@[simp] theorem Table.wf_nil : Table.wf ([] : Table α) = true := rfl

/-- A read after a write: the value at the key written, and what stood there before at every other key. -/
theorem Table.get_set (t : Table α) (k k' : Nat) (v : α) :
    Table.get (Table.set t k v) k' = if k = k' then some v else Table.get t k' := by
  induction t with
  | nil => simp [Table.set, Table.get]
  | cons e t ih =>
    obtain ⟨k₀, v₀⟩ := e
    simp only [Table.set]
    split
    · simp [Table.get]
    · split
      · next h => subst h; by_cases hk : k = k' <;> simp [Table.get, hk]
      · next h =>
        by_cases hk : k₀ = k'
        · subst hk; simp [Table.get, h]
        · simp [Table.get, hk, ih]

@[simp] theorem Table.get_set_self (t : Table α) (k : Nat) (v : α) : Table.get (Table.set t k v) k = some v := by
  simp [Table.get_set]

theorem Table.get_set_ne (t : Table α) {k k' : Nat} (v : α) (h : k ≠ k') :
    Table.get (Table.set t k v) k' = Table.get t k' := by
  simp [Table.get_set, h]

theorem Table.above_of_le {lo lo' : Nat} (h : lo' ≤ lo) : ∀ t : Table α, Table.above lo t = true → Table.above lo' t = true
  | [], _ => rfl
  | (k, v) :: t, ht => by
    simp only [Table.above, Bool.and_eq_true, decide_eq_true_eq] at ht ⊢
    exact ⟨by omega, ht.2⟩

theorem Table.wf_of_above {lo : Nat} : ∀ t : Table α, Table.above lo t = true → Table.wf t = true
  | [], _ => rfl
  | (k, v) :: t, h => by
    simp only [Table.above, Bool.and_eq_true] at h
    exact h.2

theorem Table.above_set {lo k : Nat} (v : α) (hk : lo < k) :
    ∀ t : Table α, Table.above lo t = true → Table.above lo (Table.set t k v) = true
  | [], _ => by simp [Table.set, Table.above, hk]
  | (k₀, v₀) :: t, h => by
    simp only [Table.above, Bool.and_eq_true, decide_eq_true_eq] at h
    simp only [Table.set]
    split
    · next h₁ => simp [Table.above, hk, h₁, h.2]
    · split
      · next h₂ => subst h₂; simp [Table.above, hk, h.2]
      · next h₁ h₂ =>
        simp only [Table.above, Bool.and_eq_true, decide_eq_true_eq]
        exact ⟨h.1, Table.above_set v (by omega) t h.2⟩

/-- A write keeps the canonical form. -/
theorem Table.wf_set (t : Table α) (k : Nat) (v : α) (h : Table.wf t = true) : Table.wf (Table.set t k v) = true := by
  cases t with
  | nil => rfl
  | cons e t =>
    obtain ⟨k₀, v₀⟩ := e
    simp only [Table.wf] at h
    simp only [Table.set]
    split
    · next h₁ => simp [Table.wf, Table.above, h₁, h]
    · split
      · next h₂ => subst h₂; simpa [Table.wf] using h
      · next h₁ h₂ => exact Table.above_set v (by omega) t h

theorem Table.get_of_above {lo : Nat} : ∀ t : Table α, Table.above lo t = true → ∀ k, k ≤ lo → Table.get t k = none
  | [], _, _, _ => rfl
  | (k₀, v₀) :: t, h, k, hk => by
    simp only [Table.above, Bool.and_eq_true, decide_eq_true_eq] at h
    have hne : k₀ ≠ k := by omega
    simp only [Table.get, hne, if_false]
    exact Table.get_of_above t h.2 k (by omega)

/-- Canonical tables that read alike are equal: the form is canonical. -/
theorem Table.ext_of_wf : ∀ t t' : Table α, Table.wf t = true → Table.wf t' = true →
    (∀ k, Table.get t k = Table.get t' k) → t = t'
  | [], [], _, _, _ => rfl
  | [], (k, v) :: t', _, _, h => by have := h k; simp [Table.get] at this
  | (k, v) :: t, [], _, _, h => by have := h k; simp [Table.get] at this
  | (k, v) :: t, (k', v') :: t', hw, hw', h => by
    simp only [Table.wf] at hw hw'
    have hk : k = k' := by
      rcases Nat.lt_trichotomy k k' with hlt | heq | hgt
      · have h1 := h k
        have hne : k' ≠ k := by omega
        simp [Table.get, hne, Table.get_of_above t' hw' k (by omega)] at h1
      · exact heq
      · have h1 := h k'
        have hne : k ≠ k' := by omega
        simp [Table.get, hne, Table.get_of_above t hw k' (by omega)] at h1
    subst hk
    have hv : v = v' := by have := h k; simpa [Table.get] using this
    subst hv
    have ht : t = t' := by
      refine Table.ext_of_wf t t' (Table.wf_of_above t hw) (Table.wf_of_above t' hw') (fun j => ?_)
      by_cases hj : k = j
      · subst hj
        rw [Table.get_of_above t hw k (Nat.le_refl k), Table.get_of_above t' hw' k (Nat.le_refl k)]
      · have := h j
        simpa [Table.get, hj] using this
    rw [ht]

/-- A value the table lists somewhere is listed after a write only if it was before, or is the value written. -/
theorem Table.mem_set {t : Table α} {k : Nat} {v : α} {e : Nat × α} (h : e ∈ Table.set t k v) : e ∈ t ∨ e = (k, v) := by
  induction t with
  | nil => simp only [Table.set, List.mem_singleton] at h; exact Or.inr h
  | cons e₀ t ih =>
    obtain ⟨k₀, v₀⟩ := e₀
    simp only [Table.set] at h
    split at h
    · rcases List.mem_cons.1 h with h | h
      · exact Or.inr h
      · exact Or.inl h
    · split at h
      · rcases List.mem_cons.1 h with h | h
        · exact Or.inr h
        · exact Or.inl (List.mem_cons_of_mem _ h)
      · rcases List.mem_cons.1 h with h | h
        · exact Or.inl (h ▸ List.mem_cons_self)
        · exact (ih h).imp_left (List.mem_cons_of_mem _)

end Sys2Proof.Machine
end

