-- ==== Sys2Proof/Laws/Fabric.lean ====
section
/-! SUPPORT. The laws of fabric writes: what each write leaves in each table, the slots of a program load, and the canonical
form kept. -/

namespace Sys2Proof.Machine

variable (f : Fabric)

@[simp] theorem Fabric.applyAll_nil : f.applyAll [] = f := rfl

@[simp] theorem Fabric.applyAll_cons (w : FabricWrite) (ws : List FabricWrite) :
    f.applyAll (w :: ws) = (f.apply w).applyAll ws := rfl

theorem Fabric.applyAll_append (ws ws' : List FabricWrite) :
    f.applyAll (ws ++ ws') = (f.applyAll ws).applyAll ws' := by
  simp [Fabric.applyAll]

@[simp] theorem Fabric.apply_lane_lc (i l : Nat) (w : LaneWrite) : (f.apply (.lane i l w)).lc = Table.set f.lc (key i l) ((f.laneCfg i l).write w) := rfl
@[simp] theorem Fabric.apply_lane_funcsel (i l : Nat) (w : LaneWrite) : (f.apply (.lane i l w)).funcsel = f.funcsel := rfl
@[simp] theorem Fabric.apply_lane_pull (i l : Nat) (w : LaneWrite) : (f.apply (.lane i l w)).pull = f.pull := rfl
@[simp] theorem Fabric.apply_lane_pindir (i l : Nat) (w : LaneWrite) : (f.apply (.lane i l w)).pindir = f.pindir := rfl
@[simp] theorem Fabric.apply_lane_pinout (i l : Nat) (w : LaneWrite) : (f.apply (.lane i l w)).pinout = f.pinout := rfl
@[simp] theorem Fabric.apply_lane_rxf (i l : Nat) (w : LaneWrite) : (f.apply (.lane i l w)).rxf = f.rxf := rfl
@[simp] theorem Fabric.apply_lane_txf (i l : Nat) (w : LaneWrite) : (f.apply (.lane i l w)).txf = f.txf := rfl
@[simp] theorem Fabric.apply_lane_pm (i l : Nat) (w : LaneWrite) : (f.apply (.lane i l w)).pm = f.pm := rfl

@[simp] theorem Fabric.apply_funcsel_lc (p i : Nat) : (f.apply (.funcsel p i)).lc = f.lc := rfl
@[simp] theorem Fabric.apply_funcsel_funcsel (p i : Nat) : (f.apply (.funcsel p i)).funcsel = Table.set f.funcsel p (.coproc i) := rfl
@[simp] theorem Fabric.apply_funcsel_pull (p i : Nat) : (f.apply (.funcsel p i)).pull = f.pull := rfl
@[simp] theorem Fabric.apply_funcsel_pindir (p i : Nat) : (f.apply (.funcsel p i)).pindir = f.pindir := rfl
@[simp] theorem Fabric.apply_funcsel_pinout (p i : Nat) : (f.apply (.funcsel p i)).pinout = f.pinout := rfl
@[simp] theorem Fabric.apply_funcsel_rxf (p i : Nat) : (f.apply (.funcsel p i)).rxf = f.rxf := rfl
@[simp] theorem Fabric.apply_funcsel_txf (p i : Nat) : (f.apply (.funcsel p i)).txf = f.txf := rfl
@[simp] theorem Fabric.apply_funcsel_pm (p i : Nat) : (f.apply (.funcsel p i)).pm = f.pm := rfl

@[simp] theorem Fabric.apply_funcsel_laneCfg (p i : Nat) (i' l' : Nat) :
    (f.apply (.funcsel p i)).laneCfg i' l' = f.laneCfg i' l' := rfl

@[simp] theorem Fabric.apply_pull_lc (p : Nat) (v : Pull) : (f.apply (.pull p v)).lc = f.lc := rfl
@[simp] theorem Fabric.apply_pull_funcsel (p : Nat) (v : Pull) : (f.apply (.pull p v)).funcsel = f.funcsel := rfl
@[simp] theorem Fabric.apply_pull_pull (p : Nat) (v : Pull) : (f.apply (.pull p v)).pull = Table.set f.pull p v := rfl
@[simp] theorem Fabric.apply_pull_pindir (p : Nat) (v : Pull) : (f.apply (.pull p v)).pindir = f.pindir := rfl
@[simp] theorem Fabric.apply_pull_pinout (p : Nat) (v : Pull) : (f.apply (.pull p v)).pinout = f.pinout := rfl
@[simp] theorem Fabric.apply_pull_rxf (p : Nat) (v : Pull) : (f.apply (.pull p v)).rxf = f.rxf := rfl
@[simp] theorem Fabric.apply_pull_txf (p : Nat) (v : Pull) : (f.apply (.pull p v)).txf = f.txf := rfl
@[simp] theorem Fabric.apply_pull_pm (p : Nat) (v : Pull) : (f.apply (.pull p v)).pm = f.pm := rfl

@[simp] theorem Fabric.apply_pull_laneCfg (p : Nat) (v : Pull) (i' l' : Nat) :
    (f.apply (.pull p v)).laneCfg i' l' = f.laneCfg i' l' := rfl

@[simp] theorem Fabric.apply_pindir_lc (i p : Nat) (v : PinDir) : (f.apply (.pindir i p v)).lc = f.lc := rfl
@[simp] theorem Fabric.apply_pindir_funcsel (i p : Nat) (v : PinDir) : (f.apply (.pindir i p v)).funcsel = f.funcsel := rfl
@[simp] theorem Fabric.apply_pindir_pull (i p : Nat) (v : PinDir) : (f.apply (.pindir i p v)).pull = f.pull := rfl
@[simp] theorem Fabric.apply_pindir_pindir (i p : Nat) (v : PinDir) : (f.apply (.pindir i p v)).pindir = Table.set f.pindir (key i p) v := rfl
@[simp] theorem Fabric.apply_pindir_pinout (i p : Nat) (v : PinDir) : (f.apply (.pindir i p v)).pinout = f.pinout := rfl
@[simp] theorem Fabric.apply_pindir_rxf (i p : Nat) (v : PinDir) : (f.apply (.pindir i p v)).rxf = f.rxf := rfl
@[simp] theorem Fabric.apply_pindir_txf (i p : Nat) (v : PinDir) : (f.apply (.pindir i p v)).txf = f.txf := rfl
@[simp] theorem Fabric.apply_pindir_pm (i p : Nat) (v : PinDir) : (f.apply (.pindir i p v)).pm = f.pm := rfl

@[simp] theorem Fabric.apply_pindir_laneCfg (i p : Nat) (v : PinDir) (i' l' : Nat) :
    (f.apply (.pindir i p v)).laneCfg i' l' = f.laneCfg i' l' := rfl

@[simp] theorem Fabric.apply_pinout_lc (i p : Nat) (v : Bool) : (f.apply (.pinout i p v)).lc = f.lc := rfl
@[simp] theorem Fabric.apply_pinout_funcsel (i p : Nat) (v : Bool) : (f.apply (.pinout i p v)).funcsel = f.funcsel := rfl
@[simp] theorem Fabric.apply_pinout_pull (i p : Nat) (v : Bool) : (f.apply (.pinout i p v)).pull = f.pull := rfl
@[simp] theorem Fabric.apply_pinout_pindir (i p : Nat) (v : Bool) : (f.apply (.pinout i p v)).pindir = f.pindir := rfl
@[simp] theorem Fabric.apply_pinout_pinout (i p : Nat) (v : Bool) : (f.apply (.pinout i p v)).pinout = Table.set f.pinout (key i p) v := rfl
@[simp] theorem Fabric.apply_pinout_rxf (i p : Nat) (v : Bool) : (f.apply (.pinout i p v)).rxf = f.rxf := rfl
@[simp] theorem Fabric.apply_pinout_txf (i p : Nat) (v : Bool) : (f.apply (.pinout i p v)).txf = f.txf := rfl
@[simp] theorem Fabric.apply_pinout_pm (i p : Nat) (v : Bool) : (f.apply (.pinout i p v)).pm = f.pm := rfl

@[simp] theorem Fabric.apply_pinout_laneCfg (i p : Nat) (v : Bool) (i' l' : Nat) :
    (f.apply (.pinout i p v)).laneCfg i' l' = f.laneCfg i' l' := rfl

@[simp] theorem Fabric.apply_clearFifos_lc (i l : Nat) : (f.apply (.clearFifos i l)).lc = f.lc := rfl
@[simp] theorem Fabric.apply_clearFifos_funcsel (i l : Nat) : (f.apply (.clearFifos i l)).funcsel = f.funcsel := rfl
@[simp] theorem Fabric.apply_clearFifos_pull (i l : Nat) : (f.apply (.clearFifos i l)).pull = f.pull := rfl
@[simp] theorem Fabric.apply_clearFifos_pindir (i l : Nat) : (f.apply (.clearFifos i l)).pindir = f.pindir := rfl
@[simp] theorem Fabric.apply_clearFifos_pinout (i l : Nat) : (f.apply (.clearFifos i l)).pinout = f.pinout := rfl
@[simp] theorem Fabric.apply_clearFifos_rxf (i l : Nat) : (f.apply (.clearFifos i l)).rxf = Table.set f.rxf (key i l) [] := rfl
@[simp] theorem Fabric.apply_clearFifos_txf (i l : Nat) : (f.apply (.clearFifos i l)).txf = Table.set f.txf (key i l) [] := rfl
@[simp] theorem Fabric.apply_clearFifos_pm (i l : Nat) : (f.apply (.clearFifos i l)).pm = f.pm := rfl

@[simp] theorem Fabric.apply_clearFifos_laneCfg (i l : Nat) (i' l' : Nat) :
    (f.apply (.clearFifos i l)).laneCfg i' l' = f.laneCfg i' l' := rfl

@[simp] theorem Fabric.apply_slot_lc (i o : Nat) (v : Slot) : (f.apply (.slot i o v)).lc = f.lc := rfl
@[simp] theorem Fabric.apply_slot_funcsel (i o : Nat) (v : Slot) : (f.apply (.slot i o v)).funcsel = f.funcsel := rfl
@[simp] theorem Fabric.apply_slot_pull (i o : Nat) (v : Slot) : (f.apply (.slot i o v)).pull = f.pull := rfl
@[simp] theorem Fabric.apply_slot_pindir (i o : Nat) (v : Slot) : (f.apply (.slot i o v)).pindir = f.pindir := rfl
@[simp] theorem Fabric.apply_slot_pinout (i o : Nat) (v : Slot) : (f.apply (.slot i o v)).pinout = f.pinout := rfl
@[simp] theorem Fabric.apply_slot_rxf (i o : Nat) (v : Slot) : (f.apply (.slot i o v)).rxf = f.rxf := rfl
@[simp] theorem Fabric.apply_slot_txf (i o : Nat) (v : Slot) : (f.apply (.slot i o v)).txf = f.txf := rfl
@[simp] theorem Fabric.apply_slot_pm (i o : Nat) (v : Slot) : (f.apply (.slot i o v)).pm = Table.set f.pm (key i o) v := rfl

@[simp] theorem Fabric.apply_slot_laneCfg (i o : Nat) (v : Slot) (i' l' : Nat) :
    (f.apply (.slot i o v)).laneCfg i' l' = f.laneCfg i' l' := rfl

/-- A lane field write changes the record of its lane and of no other. -/
theorem Fabric.apply_lane_laneCfg (i l : Nat) (w : LaneWrite) (i' l' : Nat) :
    (f.apply (.lane i l w)).laneCfg i' l' = if i = i' ∧ l = l' then (f.laneCfg i l).write w else f.laneCfg i' l' := by
  simp only [Fabric.laneCfg, Fabric.apply_lane_lc, Table.get_set, key_inj]
  split <;> simp

@[simp] theorem Fabric.apply_lane_laneCfg_self (i l : Nat) (w : LaneWrite) :
    (f.apply (.lane i l w)).laneCfg i l = (f.laneCfg i l).write w := by
  simp [Fabric.apply_lane_laneCfg]

/-- A field write owns the record: it is never the all-unowned one. -/
theorem LaneCfg.write_ne_unowned (c : LaneCfg) (w : LaneWrite) : c.write w ≠ LaneCfg.unowned := by
  cases w <;> simp [LaneCfg.write, LaneCfg.unowned]

/-- A write keeps the canonical form of every table. -/
theorem Fabric.apply_wf (w : FabricWrite) (h : f.wf = true) : (f.apply w).wf = true := by
  simp only [Fabric.wf, Bool.and_eq_true] at h
  obtain ⟨⟨⟨⟨⟨⟨⟨⟨h1, h2⟩, h3⟩, h4⟩, h5⟩, h6⟩, h7⟩, h8⟩, h9⟩ := h
  cases w with
  | lane i l w =>
    simp only [Fabric.wf, Fabric.apply, Bool.and_eq_true]
    refine ⟨⟨⟨⟨⟨⟨⟨⟨Table.wf_set _ _ _ h1, h2⟩, h3⟩, h4⟩, h5⟩, h6⟩, h7⟩, h8⟩, ?_⟩
    refine List.all_eq_true.2 (fun e he => ?_)
    rcases Table.mem_set he with he | rfl
    · exact List.all_eq_true.1 h9 e he
    · simpa using LaneCfg.write_ne_unowned _ w
  | funcsel p i => simp [Fabric.wf, Fabric.apply, Table.wf_set, *]
  | pull p v => simp [Fabric.wf, Fabric.apply, Table.wf_set, *]
  | pindir i p v => simp [Fabric.wf, Fabric.apply, Table.wf_set, *]
  | pinout i p v => simp [Fabric.wf, Fabric.apply, Table.wf_set, *]
  | clearFifos i l => simp [Fabric.wf, Fabric.apply, Table.wf_set, *]
  | slot i o v => simp [Fabric.wf, Fabric.apply, Table.wf_set, *]

/-- A list of writes keeps the canonical form of every table. -/
theorem Fabric.applyAll_wf (ws : List FabricWrite) : ∀ f : Fabric, f.wf = true → (f.applyAll ws).wf = true := by
  induction ws with
  | nil => exact fun _ h => h
  | cons w ws ih => exact fun f h => ih _ (f.apply_wf w h)

theorem slotWrites_succ (i : Nat) (prog : Program) (o n : Nat) :
    slotWrites i prog o (n + 1) = slotWrites i prog o n ++ [.slot i (o + n) (.code prog o n)] := by
  simp [slotWrites, List.range_succ]

/-- A program's slot writes change program memory alone. -/
theorem Fabric.applyAll_slotWrites (i : Nat) (prog : Program) (o n : Nat) :
    f.applyAll (slotWrites i prog o n) = { f with pm := (f.applyAll (slotWrites i prog o n)).pm } := by
  induction n with
  | zero => rfl
  | succ n ih => rw [slotWrites_succ, Fabric.applyAll_append, ih]; rfl

/-- A program's slot writes depend on program memory alone. -/
theorem Fabric.applyAll_slotWrites_congr {f g : Fabric} (h : f.pm = g.pm) (i : Nat) (prog : Program) (o n : Nat) :
    (f.applyAll (slotWrites i prog o n)).pm = (g.applyAll (slotWrites i prog o n)).pm := by
  induction n with
  | zero => exact h
  | succ n ih =>
    rw [slotWrites_succ, Fabric.applyAll_append, Fabric.applyAll_append]
    exact congrArg (Table.set · (key i (o + n)) (.code prog o n)) ih

/-- Program memory after a program's slot writes: the program from its offset on, and what stood there before elsewhere. -/
theorem Fabric.applyAll_slotWrites_pm (i : Nat) (prog : Program) (o n i' j : Nat) :
    Table.get (f.applyAll (slotWrites i prog o n)).pm (key i' j)
      = if i' = i ∧ o ≤ j ∧ j < o + n then some (.code prog o (j - o)) else Table.get f.pm (key i' j) := by
  induction n with
  | zero =>
    have : ¬(i' = i ∧ o ≤ j ∧ j < o + 0) := by omega
    rw [if_neg this]; rfl
  | succ n ih =>
    rw [slotWrites_succ, Fabric.applyAll_append]
    simp only [Fabric.applyAll_cons, Fabric.applyAll_nil, Fabric.apply_slot_pm, Table.get_set, key_inj, ih]
    by_cases h : i = i' ∧ o + n = j
    · obtain ⟨rfl, rfl⟩ := h
      simp
    · rw [if_neg h]
      by_cases h' : i' = i ∧ o ≤ j ∧ j < o + n
      · rw [if_pos h', if_pos (by omega)]
      · rw [if_neg h', if_neg (by omega)]

end Sys2Proof.Machine
end

