-- ==== Sys2Proof/Laws/State.lean ====
section
/-! SUPPORT. What each named operation leaves in each field of the state: one lemma per field per operation, true by
definition. -/

namespace Sys2Proof.Machine

variable (s : State)

@[simp] theorem State.respond_inst (v : Word) : (s.respond v).inst = s.inst := rfl
@[simp] theorem State.respond_rx (v : Word) : (s.respond v).rx = s.rx := rfl
@[simp] theorem State.respond_tx (v : Word) : (s.respond v).tx = s.tx := rfl
@[simp] theorem State.respond_started (v : Word) : (s.respond v).started = s.started := rfl
@[simp] theorem State.respond_div (v : Word) : (s.respond v).div = s.div := rfl
@[simp] theorem State.respond_peek (v : Word) : (s.respond v).peek = s.peek := rfl
@[simp] theorem State.respond_fault (v : Word) : (s.respond v).fault = s.fault := rfl
@[simp] theorem State.respond_fabric (v : Word) : (s.respond v).fabric = s.fabric := rfl
@[simp] theorem State.respond_lineTx (v : Word) : (s.respond v).lineTx = s.lineTx := rfl
@[simp] theorem State.respond_launch (v : Word) : (s.respond v).launch = s.launch := rfl
@[simp] theorem State.respond_port (v : Word) : (s.respond v).port = none := rfl
@[simp] theorem State.respond_resp (v : Word) : (s.respond v).resp = some v := rfl
@[simp] theorem State.respond_cmds (v : Word) : (s.respond v).cmds = s.cmds := rfl
@[simp] theorem State.respond_turns (v : Word) : (s.respond v).turns = s.turns := rfl
@[simp] theorem State.respond_draws (v : Word) : (s.respond v).draws = s.draws := rfl

@[simp] theorem State.raise_inst (c : FaultCode) : (s.raise c).inst = s.inst := rfl
@[simp] theorem State.raise_rx (c : FaultCode) : (s.raise c).rx = s.rx := rfl
@[simp] theorem State.raise_tx (c : FaultCode) : (s.raise c).tx = s.tx := rfl
@[simp] theorem State.raise_started (c : FaultCode) : (s.raise c).started = s.started := rfl
@[simp] theorem State.raise_div (c : FaultCode) : (s.raise c).div = s.div := rfl
@[simp] theorem State.raise_peek (c : FaultCode) : (s.raise c).peek = s.peek := rfl
@[simp] theorem State.raise_fault (c : FaultCode) : (s.raise c).fault = some c := rfl
@[simp] theorem State.raise_fabric (c : FaultCode) : (s.raise c).fabric = s.fabric := rfl
@[simp] theorem State.raise_lineTx (c : FaultCode) : (s.raise c).lineTx = s.lineTx := rfl
@[simp] theorem State.raise_launch (c : FaultCode) : (s.raise c).launch = s.launch := rfl
@[simp] theorem State.raise_port (c : FaultCode) : (s.raise c).port = none := rfl
@[simp] theorem State.raise_resp (c : FaultCode) : (s.raise c).resp = none := rfl
@[simp] theorem State.raise_cmds (c : FaultCode) : (s.raise c).cmds = s.cmds := rfl
@[simp] theorem State.raise_turns (c : FaultCode) : (s.raise c).turns = s.turns := rfl
@[simp] theorem State.raise_draws (c : FaultCode) : (s.raise c).draws = s.draws := rfl

@[simp] theorem State.drawn_inst : s.drawn.inst = s.inst := rfl
@[simp] theorem State.drawn_rx : s.drawn.rx = s.rx := rfl
@[simp] theorem State.drawn_tx : s.drawn.tx = s.tx := rfl
@[simp] theorem State.drawn_started : s.drawn.started = s.started := rfl
@[simp] theorem State.drawn_div : s.drawn.div = s.div := rfl
@[simp] theorem State.drawn_peek : s.drawn.peek = s.peek := rfl
@[simp] theorem State.drawn_fault : s.drawn.fault = s.fault := rfl
@[simp] theorem State.drawn_fabric : s.drawn.fabric = s.fabric := rfl
@[simp] theorem State.drawn_lineTx : s.drawn.lineTx = s.lineTx := rfl
@[simp] theorem State.drawn_launch : s.drawn.launch = s.launch := rfl
@[simp] theorem State.drawn_port : s.drawn.port = s.port := rfl
@[simp] theorem State.drawn_resp : s.drawn.resp = s.resp := rfl
@[simp] theorem State.drawn_cmds : s.drawn.cmds = s.cmds := rfl
@[simp] theorem State.drawn_turns : s.drawn.turns = s.turns := rfl
@[simp] theorem State.drawn_draws : s.drawn.draws = s.draws + 1 := rfl

@[simp] theorem State.writes_inst (ws : List FabricWrite) : (s.writes ws).inst = s.inst := rfl
@[simp] theorem State.writes_rx (ws : List FabricWrite) : (s.writes ws).rx = s.rx := rfl
@[simp] theorem State.writes_tx (ws : List FabricWrite) : (s.writes ws).tx = s.tx := rfl
@[simp] theorem State.writes_started (ws : List FabricWrite) : (s.writes ws).started = s.started := rfl
@[simp] theorem State.writes_div (ws : List FabricWrite) : (s.writes ws).div = s.div := rfl
@[simp] theorem State.writes_peek (ws : List FabricWrite) : (s.writes ws).peek = s.peek := rfl
@[simp] theorem State.writes_fault (ws : List FabricWrite) : (s.writes ws).fault = s.fault := rfl
@[simp] theorem State.writes_fabric (ws : List FabricWrite) : (s.writes ws).fabric = s.fabric.applyAll ws := rfl
@[simp] theorem State.writes_lineTx (ws : List FabricWrite) : (s.writes ws).lineTx = s.lineTx := rfl
@[simp] theorem State.writes_launch (ws : List FabricWrite) : (s.writes ws).launch = s.launch := rfl
@[simp] theorem State.writes_port (ws : List FabricWrite) : (s.writes ws).port = s.port := rfl
@[simp] theorem State.writes_resp (ws : List FabricWrite) : (s.writes ws).resp = s.resp := rfl
@[simp] theorem State.writes_cmds (ws : List FabricWrite) : (s.writes ws).cmds = s.cmds := rfl
@[simp] theorem State.writes_turns (ws : List FabricWrite) : (s.writes ws).turns = s.turns := rfl
@[simp] theorem State.writes_draws (ws : List FabricWrite) : (s.writes ws).draws = s.draws := rfl

@[simp] theorem State.setRxq_inst (q : List Word) : (s.setRxq q).inst = s.inst := rfl
@[simp] theorem State.setRxq_rx (q : List Word) : (s.setRxq q).rx = s.rx := rfl
@[simp] theorem State.setRxq_tx (q : List Word) : (s.setRxq q).tx = s.tx := rfl
@[simp] theorem State.setRxq_started (q : List Word) : (s.setRxq q).started = s.started := rfl
@[simp] theorem State.setRxq_div (q : List Word) : (s.setRxq q).div = s.div := rfl
@[simp] theorem State.setRxq_peek (q : List Word) : (s.setRxq q).peek = s.peek := rfl
@[simp] theorem State.setRxq_fault (q : List Word) : (s.setRxq q).fault = s.fault := rfl
@[simp] theorem State.setRxq_fabric (q : List Word) : (s.setRxq q).fabric = { s.fabric with rxf := Table.set s.fabric.rxf s.rxKey q } := rfl
@[simp] theorem State.setRxq_lineTx (q : List Word) : (s.setRxq q).lineTx = s.lineTx := rfl
@[simp] theorem State.setRxq_launch (q : List Word) : (s.setRxq q).launch = s.launch := rfl
@[simp] theorem State.setRxq_port (q : List Word) : (s.setRxq q).port = s.port := rfl
@[simp] theorem State.setRxq_resp (q : List Word) : (s.setRxq q).resp = s.resp := rfl
@[simp] theorem State.setRxq_cmds (q : List Word) : (s.setRxq q).cmds = s.cmds := rfl
@[simp] theorem State.setRxq_turns (q : List Word) : (s.setRxq q).turns = s.turns := rfl
@[simp] theorem State.setRxq_draws (q : List Word) : (s.setRxq q).draws = s.draws := rfl

@[simp] theorem State.setTxq_inst (q : List Word) : (s.setTxq q).inst = s.inst := rfl
@[simp] theorem State.setTxq_rx (q : List Word) : (s.setTxq q).rx = s.rx := rfl
@[simp] theorem State.setTxq_tx (q : List Word) : (s.setTxq q).tx = s.tx := rfl
@[simp] theorem State.setTxq_started (q : List Word) : (s.setTxq q).started = s.started := rfl
@[simp] theorem State.setTxq_div (q : List Word) : (s.setTxq q).div = s.div := rfl
@[simp] theorem State.setTxq_peek (q : List Word) : (s.setTxq q).peek = s.peek := rfl
@[simp] theorem State.setTxq_fault (q : List Word) : (s.setTxq q).fault = s.fault := rfl
@[simp] theorem State.setTxq_fabric (q : List Word) : (s.setTxq q).fabric = { s.fabric with txf := Table.set s.fabric.txf s.txKey q } := rfl
@[simp] theorem State.setTxq_lineTx (q : List Word) : (s.setTxq q).lineTx = s.lineTx := rfl
@[simp] theorem State.setTxq_launch (q : List Word) : (s.setTxq q).launch = s.launch := rfl
@[simp] theorem State.setTxq_port (q : List Word) : (s.setTxq q).port = s.port := rfl
@[simp] theorem State.setTxq_resp (q : List Word) : (s.setTxq q).resp = s.resp := rfl
@[simp] theorem State.setTxq_cmds (q : List Word) : (s.setTxq q).cmds = s.cmds := rfl
@[simp] theorem State.setTxq_turns (q : List Word) : (s.setTxq q).turns = s.turns := rfl
@[simp] theorem State.setTxq_draws (q : List Word) : (s.setTxq q).draws = s.draws := rfl

@[simp] theorem State.latchDiv_inst (d : DivResult) : (s.latchDiv d).inst = s.inst := rfl
@[simp] theorem State.latchDiv_rx (d : DivResult) : (s.latchDiv d).rx = s.rx := rfl
@[simp] theorem State.latchDiv_tx (d : DivResult) : (s.latchDiv d).tx = s.tx := rfl
@[simp] theorem State.latchDiv_started (d : DivResult) : (s.latchDiv d).started = s.started := rfl
@[simp] theorem State.latchDiv_div (d : DivResult) : (s.latchDiv d).div = some d := rfl
@[simp] theorem State.latchDiv_peek (d : DivResult) : (s.latchDiv d).peek = s.peek := rfl
@[simp] theorem State.latchDiv_fault (d : DivResult) : (s.latchDiv d).fault = s.fault := rfl
@[simp] theorem State.latchDiv_fabric (d : DivResult) : (s.latchDiv d).fabric = s.fabric := rfl
@[simp] theorem State.latchDiv_lineTx (d : DivResult) : (s.latchDiv d).lineTx = s.lineTx := rfl
@[simp] theorem State.latchDiv_launch (d : DivResult) : (s.latchDiv d).launch = s.launch := rfl
@[simp] theorem State.latchDiv_port (d : DivResult) : (s.latchDiv d).port = s.port := rfl
@[simp] theorem State.latchDiv_resp (d : DivResult) : (s.latchDiv d).resp = s.resp := rfl
@[simp] theorem State.latchDiv_cmds (d : DivResult) : (s.latchDiv d).cmds = s.cmds := rfl
@[simp] theorem State.latchDiv_turns (d : DivResult) : (s.latchDiv d).turns = s.turns := rfl
@[simp] theorem State.latchDiv_draws (d : DivResult) : (s.latchDiv d).draws = drawsAfter d s.draws := rfl

@[simp] theorem State.markStarted_inst : s.markStarted.inst = s.inst := rfl
@[simp] theorem State.markStarted_rx : s.markStarted.rx = s.rx := rfl
@[simp] theorem State.markStarted_tx : s.markStarted.tx = s.tx := rfl
@[simp] theorem State.markStarted_started : s.markStarted.started = true := rfl
@[simp] theorem State.markStarted_div : s.markStarted.div = s.div := rfl
@[simp] theorem State.markStarted_peek : s.markStarted.peek = s.peek := rfl
@[simp] theorem State.markStarted_fault : s.markStarted.fault = s.fault := rfl
@[simp] theorem State.markStarted_fabric : s.markStarted.fabric = s.fabric := rfl
@[simp] theorem State.markStarted_lineTx : s.markStarted.lineTx = s.lineTx := rfl
@[simp] theorem State.markStarted_launch : s.markStarted.launch = s.launch := rfl
@[simp] theorem State.markStarted_port : s.markStarted.port = s.port := rfl
@[simp] theorem State.markStarted_resp : s.markStarted.resp = s.resp := rfl
@[simp] theorem State.markStarted_cmds : s.markStarted.cmds = s.cmds := rfl
@[simp] theorem State.markStarted_turns : s.markStarted.turns = s.turns := rfl
@[simp] theorem State.markStarted_draws : s.markStarted.draws = s.draws := rfl

@[simp] theorem State.markRxEnabled_inst (o : Nat) (d : DivResult) : (s.markRxEnabled o d).inst = s.inst := rfl
@[simp] theorem State.markRxEnabled_rx (o : Nat) (d : DivResult) : (s.markRxEnabled o d).rx = { s.rx with offset := some o, divisor := some d, enabled := true } := rfl
@[simp] theorem State.markRxEnabled_tx (o : Nat) (d : DivResult) : (s.markRxEnabled o d).tx = s.tx := rfl
@[simp] theorem State.markRxEnabled_started (o : Nat) (d : DivResult) : (s.markRxEnabled o d).started = s.started := rfl
@[simp] theorem State.markRxEnabled_div (o : Nat) (d : DivResult) : (s.markRxEnabled o d).div = s.div := rfl
@[simp] theorem State.markRxEnabled_peek (o : Nat) (d : DivResult) : (s.markRxEnabled o d).peek = s.peek := rfl
@[simp] theorem State.markRxEnabled_fault (o : Nat) (d : DivResult) : (s.markRxEnabled o d).fault = s.fault := rfl
@[simp] theorem State.markRxEnabled_fabric (o : Nat) (d : DivResult) : (s.markRxEnabled o d).fabric = s.fabric := rfl
@[simp] theorem State.markRxEnabled_lineTx (o : Nat) (d : DivResult) : (s.markRxEnabled o d).lineTx = s.lineTx := rfl
@[simp] theorem State.markRxEnabled_launch (o : Nat) (d : DivResult) : (s.markRxEnabled o d).launch = s.launch := rfl
@[simp] theorem State.markRxEnabled_port (o : Nat) (d : DivResult) : (s.markRxEnabled o d).port = s.port := rfl
@[simp] theorem State.markRxEnabled_resp (o : Nat) (d : DivResult) : (s.markRxEnabled o d).resp = s.resp := rfl
@[simp] theorem State.markRxEnabled_cmds (o : Nat) (d : DivResult) : (s.markRxEnabled o d).cmds = s.cmds := rfl
@[simp] theorem State.markRxEnabled_turns (o : Nat) (d : DivResult) : (s.markRxEnabled o d).turns = s.turns := rfl
@[simp] theorem State.markRxEnabled_draws (o : Nat) (d : DivResult) : (s.markRxEnabled o d).draws = s.draws := rfl

@[simp] theorem State.markTxEnabled_inst (o : Nat) (d : DivResult) : (s.markTxEnabled o d).inst = s.inst := rfl
@[simp] theorem State.markTxEnabled_rx (o : Nat) (d : DivResult) : (s.markTxEnabled o d).rx = s.rx := rfl
@[simp] theorem State.markTxEnabled_tx (o : Nat) (d : DivResult) : (s.markTxEnabled o d).tx = { s.tx with offset := some o, divisor := some d, enabled := true } := rfl
@[simp] theorem State.markTxEnabled_started (o : Nat) (d : DivResult) : (s.markTxEnabled o d).started = s.started := rfl
@[simp] theorem State.markTxEnabled_div (o : Nat) (d : DivResult) : (s.markTxEnabled o d).div = s.div := rfl
@[simp] theorem State.markTxEnabled_peek (o : Nat) (d : DivResult) : (s.markTxEnabled o d).peek = s.peek := rfl
@[simp] theorem State.markTxEnabled_fault (o : Nat) (d : DivResult) : (s.markTxEnabled o d).fault = s.fault := rfl
@[simp] theorem State.markTxEnabled_fabric (o : Nat) (d : DivResult) : (s.markTxEnabled o d).fabric = s.fabric := rfl
@[simp] theorem State.markTxEnabled_lineTx (o : Nat) (d : DivResult) : (s.markTxEnabled o d).lineTx = s.lineTx := rfl
@[simp] theorem State.markTxEnabled_launch (o : Nat) (d : DivResult) : (s.markTxEnabled o d).launch = s.launch := rfl
@[simp] theorem State.markTxEnabled_port (o : Nat) (d : DivResult) : (s.markTxEnabled o d).port = s.port := rfl
@[simp] theorem State.markTxEnabled_resp (o : Nat) (d : DivResult) : (s.markTxEnabled o d).resp = s.resp := rfl
@[simp] theorem State.markTxEnabled_cmds (o : Nat) (d : DivResult) : (s.markTxEnabled o d).cmds = s.cmds := rfl
@[simp] theorem State.markTxEnabled_turns (o : Nat) (d : DivResult) : (s.markTxEnabled o d).turns = s.turns := rfl
@[simp] theorem State.markTxEnabled_draws (o : Nat) (d : DivResult) : (s.markTxEnabled o d).draws = s.draws := rfl

@[simp] theorem State.accept_inst (w : Cmd) (rest : List Cmd) : (s.accept w rest).inst = s.inst := rfl
@[simp] theorem State.accept_rx (w : Cmd) (rest : List Cmd) : (s.accept w rest).rx = s.rx := rfl
@[simp] theorem State.accept_tx (w : Cmd) (rest : List Cmd) : (s.accept w rest).tx = s.tx := rfl
@[simp] theorem State.accept_started (w : Cmd) (rest : List Cmd) : (s.accept w rest).started = s.started := rfl
@[simp] theorem State.accept_div (w : Cmd) (rest : List Cmd) : (s.accept w rest).div = s.div := rfl
@[simp] theorem State.accept_peek (w : Cmd) (rest : List Cmd) : (s.accept w rest).peek = s.peek := rfl
@[simp] theorem State.accept_fault (w : Cmd) (rest : List Cmd) : (s.accept w rest).fault = s.fault := rfl
@[simp] theorem State.accept_fabric (w : Cmd) (rest : List Cmd) : (s.accept w rest).fabric = s.fabric := rfl
@[simp] theorem State.accept_lineTx (w : Cmd) (rest : List Cmd) : (s.accept w rest).lineTx = s.lineTx := rfl
@[simp] theorem State.accept_launch (w : Cmd) (rest : List Cmd) : (s.accept w rest).launch = s.launch := rfl
@[simp] theorem State.accept_port (w : Cmd) (rest : List Cmd) : (s.accept w rest).port = some w := rfl
@[simp] theorem State.accept_resp (w : Cmd) (rest : List Cmd) : (s.accept w rest).resp = none := rfl
@[simp] theorem State.accept_cmds (w : Cmd) (rest : List Cmd) : (s.accept w rest).cmds = rest := rfl
@[simp] theorem State.accept_turns (w : Cmd) (rest : List Cmd) : (s.accept w rest).turns = s.turns := rfl
@[simp] theorem State.accept_draws (w : Cmd) (rest : List Cmd) : (s.accept w rest).draws = s.draws := rfl

end Sys2Proof.Machine
end

