-- ==== Sys2Proof/Laws/Ops.lean ====
section
/-! SUPPORT. What the shared operations can do: the two FIFOs, the program load, and the configuration of a channel. -/

namespace Sys2Proof.Machine

/-! ### FIFOs -/

@[simp] theorem State.rxq_setRxq (s : State) (q : List Word) : (s.setRxq q).rxq = q := by
  simp [State.rxq, State.setRxq, State.rxKey]

@[simp] theorem State.txq_setTxq (s : State) (q : List Word) : (s.setTxq q).txq = q := by
  simp [State.txq, State.setTxq, State.txKey]

@[simp] theorem State.txq_setRxq (s : State) (q : List Word) : (s.setRxq q).txq = s.txq := rfl

@[simp] theorem State.rxq_setTxq (s : State) (q : List Word) : (s.setTxq q).rxq = s.rxq := rfl

/-- A write of `RQ` changes no other FIFO. -/
theorem State.setRxq_rxf_ne (s : State) (q : List Word) {k : Nat} (h : k ≠ s.rxKey) :
    Table.get (s.setRxq q).fabric.rxf k = Table.get s.fabric.rxf k :=
  Table.get_set_ne _ _ (Ne.symm h)

/-- A write of `TQ` changes no other FIFO. -/
theorem State.setTxq_txf_ne (s : State) (q : List Word) {k : Nat} (h : k ≠ s.txKey) :
    Table.get (s.setTxq q).fabric.txf k = Table.get s.fabric.txf k :=
  Table.get_set_ne _ _ (Ne.symm h)

/-! ### The program load -/

theorem slotsFree_iff (pm : Table Slot) (i o n : Nat) :
    slotsFree pm i o n = true ↔ ∀ k, k < n → Table.get pm (key i (o + k)) = none := by
  simp [slotsFree, List.all_eq_true]

/-- An offset fits exactly when the program lies in program memory on free slots (R61). -/
theorem mem_fits (pm : Table Slot) (size i n o : Nat) :
    o ∈ fits pm size i n ↔ o + n ≤ size ∧ ∀ k, k < n → Table.get pm (key i (o + k)) = none := by
  simp only [fits, List.mem_filter, List.mem_range, Bool.and_eq_true, decide_eq_true_eq, slotsFree_iff]
  exact ⟨fun h => h.2, fun h => ⟨by omega, h⟩⟩

theorem pick_mem {free o : Nat} {l : List Nat} (h : pick free l = some o) : o ∈ l :=
  List.mem_of_getElem? h

theorem pick_eq_none {free : Nat} {l : List Nat} : pick free l = none ↔ l = [] := by
  cases l with
  | nil => simp [pick]
  | cons a l =>
    have : free % (a :: l).length < (a :: l).length := Nat.mod_lt _ (by simp)
    simp only [pick, List.getElem?_eq_none_iff, reduceCtorEq, iff_false]
    omega

/-- The program load faults where nothing fits, and otherwise writes the program at a fitting offset (R61). -/
theorem progLoad_cases (prog : Program) (n : Nat) (s : State) :
    (fits s.fabric.pm s.launch.progMemSize s.inst n = []
      ∧ progLoad prog n s = .error (s.raise (.progNoSpace prog)))
    ∨ ∃ o, o ∈ fits s.fabric.pm s.launch.progMemSize s.inst n
      ∧ progLoad prog n s = .ok (o, s.drawn.writes (slotWrites s.inst prog o n)) := by
  unfold progLoad
  cases h : pick (Config.freeOffset s.draws) (fits s.fabric.pm s.launch.progMemSize s.inst n) with
  | none => exact .inl ⟨pick_eq_none.1 h, rfl⟩
  | some o => exact .inr ⟨o, pick_mem h, rfl⟩

/-- Where the program fits at one offset alone, the load goes there, whatever the draw (R61). -/
theorem progLoad_only {prog : Program} {n o : Nat} {s : State}
    (h : fits s.fabric.pm s.launch.progMemSize s.inst n = [o]) :
    progLoad prog n s = .ok (o, s.drawn.writes (slotWrites s.inst prog o n)) := by
  simp [progLoad, h, pick, Nat.mod_one]

/-! ### The configuration of a channel -/

/-- The fabric after ConfigureRX with its program of `n` slots at `o` (R143). -/
def rxFabric (f : Fabric) (i p l o n : Nat) (c : ClkDiv) : Fabric :=
  ((f.applyAll (rxPinWrites i p)).applyAll (slotWrites i .rx o n)).applyAll (rxLaneWrites i p l o c)

/-- The fabric after ConfigureTX with its program of `n` slots at `o` (R145). -/
def txFabric (f : Fabric) (i p l o n : Nat) (c : ClkDiv) : Fabric :=
  ((f.applyAll (txPinWrites i p)).applyAll (slotWrites i .tx o n)).applyAll (txLaneWrites i p l o c)

section
variable (f : Fabric) (i p l o n : Nat) (c : ClkDiv)

theorem rxFabric_laneCfg (i' l' : Nat) :
    (rxFabric f i p l o n c).laneCfg i' l' =
      if i = i' ∧ l = l' then
        { f.laneCfg i l with
          inBase := some p, jmpPin := some p, inShiftdir := some .right, autopush := some false, autopull := some false,
          pushThresh := some 32, fjoin := some .rx, clkdiv := some c, pc := some o, en := some true }
      else f.laneCfg i' l' := by
  unfold rxFabric
  rw [Fabric.applyAll_slotWrites]
  by_cases h : i = i' ∧ l = l'
  · obtain ⟨rfl, rfl⟩ := h
    simp only [rxPinWrites, rxLaneWrites, Fabric.applyAll_cons, Fabric.applyAll_nil, Fabric.apply_lane_laneCfg,
      Fabric.apply_clearFifos_laneCfg, and_self, if_true, LaneCfg.write]
    rfl
  · simp only [rxPinWrites, rxLaneWrites, Fabric.applyAll_cons, Fabric.applyAll_nil, Fabric.apply_lane_laneCfg,
      Fabric.apply_clearFifos_laneCfg, if_neg h]
    rfl

theorem txFabric_laneCfg (i' l' : Nat) :
    (txFabric f i p l o n c).laneCfg i' l' =
      if i = i' ∧ l = l' then
        { f.laneCfg i l with
          outShiftdir := some .right, autopull := some false, pullThresh := some 32, outBase := some p,
          outCount := some 1, sidesetBase := some p, fjoin := some .tx, clkdiv := some c, pc := some o, en := some true }
      else f.laneCfg i' l' := by
  unfold txFabric
  rw [Fabric.applyAll_slotWrites]
  by_cases h : i = i' ∧ l = l'
  · obtain ⟨rfl, rfl⟩ := h
    simp only [txPinWrites, txLaneWrites, Fabric.applyAll_cons, Fabric.applyAll_nil, Fabric.apply_lane_laneCfg,
      Fabric.apply_clearFifos_laneCfg, and_self, if_true, LaneCfg.write]
    rfl
  · simp only [txPinWrites, txLaneWrites, Fabric.applyAll_cons, Fabric.applyAll_nil, Fabric.apply_lane_laneCfg,
      Fabric.apply_clearFifos_laneCfg, if_neg h]
    rfl

@[simp] theorem rxFabric_funcsel : (rxFabric f i p l o n c).funcsel = Table.set f.funcsel p (.coproc i) := by
  rw [rxFabric, Fabric.applyAll_slotWrites]; rfl

@[simp] theorem rxFabric_pull : (rxFabric f i p l o n c).pull = Table.set f.pull p .up := by
  rw [rxFabric, Fabric.applyAll_slotWrites]; rfl

@[simp] theorem rxFabric_pindir : (rxFabric f i p l o n c).pindir = Table.set f.pindir (key i p) .input := by
  rw [rxFabric, Fabric.applyAll_slotWrites]; rfl

@[simp] theorem rxFabric_pinout : (rxFabric f i p l o n c).pinout = f.pinout := by
  rw [rxFabric, Fabric.applyAll_slotWrites]; rfl

@[simp] theorem rxFabric_rxf : (rxFabric f i p l o n c).rxf = Table.set f.rxf (key i l) [] := by
  rw [rxFabric, Fabric.applyAll_slotWrites]; rfl

@[simp] theorem rxFabric_txf : (rxFabric f i p l o n c).txf = Table.set f.txf (key i l) [] := by
  rw [rxFabric, Fabric.applyAll_slotWrites]; rfl

theorem rxFabric_pm (i' j : Nat) :
    Table.get (rxFabric f i p l o n c).pm (key i' j)
      = if i' = i ∧ o ≤ j ∧ j < o + n then some (.code .rx o (j - o)) else Table.get f.pm (key i' j) :=
  Fabric.applyAll_slotWrites_pm (f.applyAll (rxPinWrites i p)) i .rx o n i' j

@[simp] theorem txFabric_funcsel : (txFabric f i p l o n c).funcsel = Table.set f.funcsel p (.coproc i) := by
  rw [txFabric, Fabric.applyAll_slotWrites]; rfl

@[simp] theorem txFabric_pull : (txFabric f i p l o n c).pull = f.pull := by
  rw [txFabric, Fabric.applyAll_slotWrites]; rfl

@[simp] theorem txFabric_pindir : (txFabric f i p l o n c).pindir = Table.set f.pindir (key i p) .output := by
  rw [txFabric, Fabric.applyAll_slotWrites]; rfl

@[simp] theorem txFabric_pinout : (txFabric f i p l o n c).pinout = Table.set f.pinout (key i p) true := by
  rw [txFabric, Fabric.applyAll_slotWrites]; rfl

@[simp] theorem txFabric_rxf : (txFabric f i p l o n c).rxf = Table.set f.rxf (key i l) [] := by
  rw [txFabric, Fabric.applyAll_slotWrites]; rfl

@[simp] theorem txFabric_txf : (txFabric f i p l o n c).txf = Table.set f.txf (key i l) [] := by
  rw [txFabric, Fabric.applyAll_slotWrites]; rfl

theorem txFabric_pm (i' j : Nat) :
    Table.get (txFabric f i p l o n c).pm (key i' j)
      = if i' = i ∧ o ≤ j ∧ j < o + n then some (.code .tx o (j - o)) else Table.get f.pm (key i' j) :=
  Fabric.applyAll_slotWrites_pm (f.applyAll (txPinWrites i p)) i .tx o n i' j

/-- ConfigureRX changes program memory by its program's load alone. -/
theorem rxFabric_pm_eq : (rxFabric f i p l o n c).pm = (f.applyAll (slotWrites i .rx o n)).pm :=
  Fabric.applyAll_slotWrites_congr (f := f.applyAll (rxPinWrites i p)) (g := f) rfl i .rx o n

/-- ConfigureTX changes program memory by its program's load alone. -/
theorem txFabric_pm_eq : (txFabric f i p l o n c).pm = (f.applyAll (slotWrites i .tx o n)).pm :=
  Fabric.applyAll_slotWrites_congr (f := f.applyAll (txPinWrites i p)) (g := f) rfl i .tx o n

theorem rxFabric_written : RxFabricWritten f (rxFabric f i p l o n c) i p l o n c := by
  refine ⟨by simp [rxFabric_laneCfg], fun i' l' h => ?_, fun p' => ?_, fun p' => ?_, fun i' p' => ?_, by simp,
    fun i' l' => ?_, fun i' l' => ?_, fun i' j => rxFabric_pm ..⟩
  · rw [rxFabric_laneCfg, if_neg]; simpa [eq_comm] using h
  all_goals simp only [rxFabric_funcsel, rxFabric_pull, rxFabric_pindir, rxFabric_rxf, rxFabric_txf, Table.get_set, key_inj]
  all_goals simp only [eq_comm]

theorem txFabric_written : TxFabricWritten f (txFabric f i p l o n c) i p l o n c := by
  refine ⟨by simp [txFabric_laneCfg], fun i' l' h => ?_, fun p' => ?_, by simp, fun i' p' => ?_, fun i' p' => ?_,
    fun i' l' => ?_, fun i' l' => ?_, fun i' j => txFabric_pm ..⟩
  · rw [txFabric_laneCfg, if_neg]; simpa [eq_comm] using h
  all_goals simp only [txFabric_funcsel, txFabric_pindir, txFabric_pinout, txFabric_rxf, txFabric_txf, Table.get_set, key_inj]
  all_goals simp only [eq_comm]

theorem rxFabric_wf (h : f.wf = true) : (rxFabric f i p l o n c).wf = true :=
  Fabric.applyAll_wf _ _ (Fabric.applyAll_wf _ _ (Fabric.applyAll_wf _ _ h))

theorem txFabric_wf (h : f.wf = true) : (txFabric f i p l o n c).wf = true :=
  Fabric.applyAll_wf _ _ (Fabric.applyAll_wf _ _ (Fabric.applyAll_wf _ _ h))

end

/-- ConfigureRX skips an unset pin, faults where its program does not fit, and otherwise configures at a fitting offset. -/
theorem configureRx_cases (d : DivResult) (c : ClkDiv) (s : State) :
    (s.rx.pin = .unset ∧ configureRx d c s = .ok s)
    ∨ (∃ p, s.rx.pin = .gpio p
        ∧ fits s.fabric.pm s.launch.progMemSize s.inst s.launch.rxProgLen = []
        ∧ configureRx d c s = .error ((s.writes (rxPinWrites s.inst p)).raise (.progNoSpace .rx)))
    ∨ ∃ p o, s.rx.pin = .gpio p
        ∧ o ∈ fits s.fabric.pm s.launch.progMemSize s.inst s.launch.rxProgLen
        ∧ configureRx d c s = .ok
            { s with
              fabric := rxFabric s.fabric s.inst p s.rx.lane o s.launch.rxProgLen c
              rx := { s.rx with offset := some o, divisor := some d, enabled := true }
              draws := s.draws + 1 } := by
  unfold configureRx
  cases hp : s.rx.pin with
  | unset => exact .inl ⟨rfl, rfl⟩
  | gpio p =>
    rcases progLoad_cases .rx s.launch.rxProgLen (s.writes (rxPinWrites s.inst p)) with ⟨h, he⟩ | ⟨o, h, he⟩
    · exact .inr (.inl ⟨p, rfl, h, by simp [he]⟩)
    · refine .inr (.inr ⟨p, o, rfl, h, ?_⟩)
      simp only [he]
      simp [State.writes, State.drawn, State.markRxEnabled, rxFabric, hp]

/-- ConfigureTX skips an unset pin, faults where its program does not fit, and otherwise configures at a fitting offset. -/
theorem configureTx_cases (d : DivResult) (c : ClkDiv) (s : State) :
    (s.tx.pin = .unset ∧ configureTx d c s = .ok s)
    ∨ (∃ p, s.tx.pin = .gpio p
        ∧ fits s.fabric.pm s.launch.progMemSize s.inst s.launch.txProgLen = []
        ∧ configureTx d c s = .error ((s.writes (txPinWrites s.inst p)).raise (.progNoSpace .tx)))
    ∨ ∃ p o, s.tx.pin = .gpio p
        ∧ o ∈ fits s.fabric.pm s.launch.progMemSize s.inst s.launch.txProgLen
        ∧ configureTx d c s = .ok
            { s with
              fabric := txFabric s.fabric s.inst p s.tx.lane o s.launch.txProgLen c
              tx := { s.tx with offset := some o, divisor := some d, enabled := true }
              draws := s.draws + 1 } := by
  unfold configureTx
  cases hp : s.tx.pin with
  | unset => exact .inl ⟨rfl, rfl⟩
  | gpio p =>
    rcases progLoad_cases .tx s.launch.txProgLen (s.writes (txPinWrites s.inst p)) with ⟨h, he⟩ | ⟨o, h, he⟩
    · exact .inr (.inl ⟨p, rfl, h, by simp [he]⟩)
    · refine .inr (.inr ⟨p, o, rfl, h, ?_⟩)
      simp only [he]
      simp [State.writes, State.drawn, State.markTxEnabled, txFabric, hp]

/-- What ConfigureRX makes of `s` where it does not fault: nothing for an unset pin, else the configured channel. -/
def RxDone (d : DivResult) (c : ClkDiv) (s s' : State) : Prop :=
  (s.rx.pin = .unset ∧ s' = s)
  ∨ ∃ p o, s.rx.pin = .gpio p ∧ o ∈ fits s.fabric.pm s.launch.progMemSize s.inst s.launch.rxProgLen
      ∧ s' = { s with
          fabric := rxFabric s.fabric s.inst p s.rx.lane o s.launch.rxProgLen c
          rx := { s.rx with offset := some o, divisor := some d, enabled := true }
          draws := s.draws + 1 }

/-- What ConfigureTX makes of `s` where it does not fault: nothing for an unset pin, else the configured channel. -/
def TxDone (d : DivResult) (c : ClkDiv) (s s' : State) : Prop :=
  (s.tx.pin = .unset ∧ s' = s)
  ∨ ∃ p o, s.tx.pin = .gpio p ∧ o ∈ fits s.fabric.pm s.launch.progMemSize s.inst s.launch.txProgLen
      ∧ s' = { s with
          fabric := txFabric s.fabric s.inst p s.tx.lane o s.launch.txProgLen c
          tx := { s.tx with offset := some o, divisor := some d, enabled := true }
          draws := s.draws + 1 }

/-- What START does after its checks (R141): the RX program has no room, or RX is done and the TX program has no room, or both
are done and the block is started. -/
theorem startChannels_cases (baud : Word) (s : State) :
    (∃ p, s.rx.pin = .gpio p ∧ fits s.fabric.pm s.launch.progMemSize s.inst s.launch.rxProgLen = []
      ∧ startChannels baud s
        = ((s.latchDiv (s.divFor baud)).writes (rxPinWrites s.inst p)).raise (.progNoSpace .rx))
    ∨ ∃ s2, RxDone (s.divFor baud) (clkDivOf (s.divFor baud) s) (s.latchDiv (s.divFor baud)) s2
      ∧ ((∃ p, s2.tx.pin = .gpio p ∧ fits s2.fabric.pm s2.launch.progMemSize s2.inst s2.launch.txProgLen = []
          ∧ startChannels baud s = (s2.writes (txPinWrites s2.inst p)).raise (.progNoSpace .tx))
        ∨ ∃ s3, TxDone (s.divFor baud) (clkDivOf (s.divFor baud) s) s2 s3
          ∧ startChannels baud s = s3.markStarted.respond respZero) := by
  have tx : ∀ s2 : State,
      configureRx (s.divFor baud) (clkDivOf (s.divFor baud) s) (s.latchDiv (s.divFor baud)) = .ok s2 →
      (∃ p, s2.tx.pin = .gpio p ∧ fits s2.fabric.pm s2.launch.progMemSize s2.inst s2.launch.txProgLen = []
          ∧ startChannels baud s = (s2.writes (txPinWrites s2.inst p)).raise (.progNoSpace .tx))
        ∨ ∃ s3, TxDone (s.divFor baud) (clkDivOf (s.divFor baud) s) s2 s3
          ∧ startChannels baud s = s3.markStarted.respond respZero := by
    intro s2 h2
    rcases configureTx_cases (s.divFor baud) (clkDivOf (s.divFor baud) s) s2 with
      ⟨hu, h⟩ | ⟨p, hp, hf, h⟩ | ⟨p, o, hp, ho, h⟩
    · exact .inr ⟨s2, .inl ⟨hu, rfl⟩, by simp only [startChannels, h2, h]⟩
    · exact .inl ⟨p, hp, hf, by simp only [startChannels, h2, h]⟩
    · exact .inr ⟨_, .inr ⟨p, o, hp, ho, rfl⟩, by simp only [startChannels, h2, h]⟩
  rcases configureRx_cases (s.divFor baud) (clkDivOf (s.divFor baud) s) (s.latchDiv (s.divFor baud)) with
    ⟨hu, h⟩ | ⟨p, hp, hf, h⟩ | ⟨p, o, hp, ho, h⟩
  · exact .inr ⟨_, .inl ⟨hu, rfl⟩, tx _ h⟩
  · exact .inl ⟨p, hp, hf, by simp only [startChannels, h]; rfl⟩
  · exact .inr ⟨_, .inr ⟨p, o, hp, ho, rfl⟩, tx _ h⟩

end Sys2Proof.Machine
end

