-- ==== Sys2Proof/Laws/PerInstr.lean ====
section
/-! SUPPORT. What holds of every command as syntax, one lemma per constructor of Instr: its word is selected by its own row of
the opcode map (30_encoding R97). -/

namespace Sys2Proof.Laws.TableRow

/-- The command's word has the match column's bits under the mask column of its row (R97). -/
def Statement (i : Instr) : Prop := encode i &&& i.op.mask = i.op.matchWord

theorem config (txPin rxPin : Pin) (rxLane txLane inst : Nat) : Statement (.config txPin rxPin rxLane txLane inst) :=
  encode_and_mask _ (config_res txPin rxPin rxLane txLane inst)

theorem start (frame : BitVec 16) (baud : Word) : Statement (.start frame baud) :=
  encode_and_mask _ (start_res frame baud)

theorem stop : Statement .stop := by unfold Statement; decide

theorem endCmd : Statement .endCmd := by unfold Statement; decide

theorem available : Statement .available := by unfold Statement; decide

theorem peek : Statement .peek := by unfold Statement; decide

theorem read : Statement .read := by unfold Statement; decide

theorem write (byte : Byte) : Statement (.write byte) :=
  encode_and_mask _ (write_res byte)

theorem flush : Statement .flush := by unfold Statement; decide

theorem ready : Statement .ready := by unfold Statement; decide

theorem divcalc (baud : Word) : Statement (.divcalc baud) :=
  encode_and_mask _ (divcalc_res baud)

theorem getdiv : Statement .getdiv := by unfold Statement; decide

theorem getchan (dir : Dir) : Statement (.getchan dir) :=
  encode_and_mask _ (getchan_res dir)

end Sys2Proof.Laws.TableRow
end

