-- ==== Sys2Proof/Laws/Step.lean ====
section
/-! SUPPORT. What a step can do, said once: the outcomes of a command, of a lane step and of a turn, and the rule that an
invariant kept by each of them is kept by every step. -/

namespace Sys2Proof.Machine

/-- A command always answers a next state: it responds, holds, or reaches the faulted state. -/
theorem exec_answers_next (i : Instr) (s : State) : ∃ t, exec i s = .next t := by
  cases i <;> simp only [exec, execConfig, execStart, execStop, execEnd, execAvailable, execPeek, execRead, execWrite,
    execFlush, execReady, execDivcalc, execGetdiv, execGetchan] <;> (repeat' split) <;> exact ⟨_, rfl⟩

/-- A fault leaves every field but `fault`, `port` and `resp` alone. -/
theorem State.raise_eq (s : State) (c : FaultCode) :
    s.raise c = { s with fault := some c, port := none, resp := none } := rfl

/-- What START does (R141): one of its four checks fails, or it goes on to the channels. -/
theorem execStart_cases (frame : BitVec 16) (baud : Word) (s : State) :
    (s.started = true ∧ execStart frame baud s = .next (s.raise (.restart (encode (.start frame baud)))))
    ∨ (s.started = false ∧ baud = 0#32
        ∧ execStart frame baud s = .next (s.raise (.baudZero (encode (.start frame baud)))))
    ∨ (s.started = false ∧ baud ≠ 0#32 ∧ ∃ p, s.pinConflict = some p
        ∧ execStart frame baud s = .next (s.raise (.pinConflict p)))
    ∨ (s.started = false ∧ baud ≠ 0#32 ∧ s.pinConflict = none ∧ ∃ l, s.laneConflict = some l
        ∧ execStart frame baud s = .next (s.raise (.laneConflict l)))
    ∨ (s.started = false ∧ baud ≠ 0#32 ∧ s.pinConflict = none ∧ s.laneConflict = none
        ∧ execStart frame baud s = .next (startChannels baud s)) := by
  unfold execStart
  cases hs : s.started with
  | true => simp
  | false =>
    by_cases hb : baud = 0#32
    · simp [hb]
    · cases hp : s.pinConflict with
      | some p => simp [hb]
      | none => cases hl : s.laneConflict <;> simp [hb]

/-- What every command but CONFIG and START may change: the two FIFOs, the cache, the fault and the port. -/
theorem exec_frame {i : Instr} {s t : State} (h : exec i s = .next t)
    (hc : ∀ a b c d e, i ≠ .config a b c d e) (hs : ∀ a b, i ≠ .start a b) :
    ∃ rxf txf peek fault port resp, t = { s with
      fabric := { s.fabric with rxf := rxf, txf := txf }, peek := peek, fault := fault, port := port, resp := resp } := by
  cases i with
  | config a b c d e => exact absurd rfl (hc a b c d e)
  | start a b => exact absurd rfl (hs a b)
  | _ =>
    simp only [exec, execStop, execEnd, execAvailable, execPeek, execRead, execWrite, execFlush, execReady, execDivcalc,
      execGetdiv, execGetchan] at h
    (repeat' split at h) <;> cases h <;> exact ⟨_, _, _, _, _, _, rfl⟩

/-- What CONFIG does (R140): its two faults, or the record written. -/
theorem execConfig_cases (a b : Pin) (c d e : Nat) (s : State) :
    (∃ f, execConfig a b c d e s = .next (s.raise f))
    ∨ s.started = false ∧ configLegal s.launch a b c d e = true
      ∧ execConfig a b c d e s = .next { s with
          rx := { s.rx with pin := b, lane := c }, tx := { s.tx with pin := a, lane := d }, inst := e,
          port := none, resp := some 0#32 } := by
  unfold execConfig
  split
  · exact .inl ⟨_, rfl⟩
  · split
    · exact .inr ⟨by simp_all, by assumption, rfl⟩
    · exact .inl ⟨_, rfl⟩

/-- What a push to the RX FIFO does (R210, R212): the FIFO may change, a draw may be taken, and nothing else changes. -/
theorem pushWord_frame (w : Word) (s : State) :
    ∃ rxf n, pushWord w s = { s with fabric := { s.fabric with rxf := rxf }, draws := n } := by
  unfold pushWord overrun
  repeat' split
  · exact ⟨_, _, rfl⟩
  · exact ⟨s.fabric.rxf, _, rfl⟩
  · exact ⟨_, _, rfl⟩
  · exact ⟨_, _, rfl⟩

/-- What the RX lane's step does (R218): the RX FIFO may change, draws may be taken, and nothing else changes. -/
theorem rxPush_frame (line : BitVec 10) (low : BitVec 24) (s : State) :
    ∃ rxf n, rxPush line low s = { s with fabric := { s.fabric with rxf := rxf }, draws := n } := by
  unfold rxPush rxDrawn
  repeat' split
  · exact pushWord_frame _ _
  · obtain ⟨r, n, h⟩ := pushWord_frame (rxByte line s ++ low) s.drawn
    exact ⟨r, n, by rw [h]; rfl⟩
  · exact ⟨s.fabric.rxf, s.draws, rfl⟩

/-- What the TX lane's step does (R214): nothing, or it sends the oldest word's low byte. -/
theorem txPop_cases (s : State) :
    ((s.tx.enabled = false ∨ s.txq = []) ∧ txPop s = s)
    ∨ ∃ w q, s.tx.enabled = true ∧ s.txq = w :: q
        ∧ txPop s = { s.setTxq q with lineTx := s.lineTx ++ [w.extractLsb' 0 8] } := by
  unfold txPop
  cases he : s.tx.enabled with
  | false => simp
  | true => cases hq : s.txq <;> simp

/-- What the host's turn does: rest, or run one command word (R90). -/
theorem hostTurn_cases {s : State} {t : State} (h : hostTurn s = .next t) :
    t = s ∨ (∃ w, s.port = some w ∧ runCommand w s = .next t)
      ∨ ∃ w ws, s.port = none ∧ s.cmds = w :: ws ∧ runCommand w (s.accept w ws) = .next t := by
  unfold hostTurn at h
  split at h
  · next hp => exact .inr (.inl ⟨_, hp, h⟩)
  · next w ws hp hc => exact .inr (.inr ⟨w, ws, hp, hc, h⟩)
  · cases h; exact .inl rfl

/-- What running a word does (R98): the decoded command, or the decoder's fault. -/
theorem runCommand_cases {w : Cmd} {s t : State} (h : runCommand w s = .next t) :
    (∃ i, decode w = .ok i ∧ exec i s = .next t) ∨ ∃ e, decode w = .error e ∧ t = s.raise (decodeFault w e) := by
  unfold runCommand at h
  split at h
  · next i hi => exact .inl ⟨i, hi, h⟩
  · next e he => cases h; exact .inr ⟨e, he, rfl⟩

/-- What a step does: in an unfaulted state, the agent whose turn it is takes one step. -/
theorem step_cases {s t : State} (h : step s = .next t) :
    s.fault = none ∧
      ((∃ line low ts, s.turns = .rxPush line low :: ts ∧ t = rxPush line low { s with turns := ts })
      ∨ (∃ ts, t = txPop { s with turns := ts })
      ∨ ∃ ts, hostTurn { s with turns := ts } = .next t) := by
  unfold step at h
  split at h
  · cases h
  · next hf =>
    refine ⟨hf, ?_⟩
    unfold takeTurn at h
    split at h
    · next ts hts => exact .inr (.inr ⟨ts, h⟩)
    · next line low ts hts => cases h; exact .inl ⟨line, low, ts, hts, rfl⟩
    · next ts hts => cases h; exact .inr (.inl ⟨ts, rfl⟩)
    · next hts =>
      split at h
      · cases h; exact .inr (.inl ⟨s.turns, rfl⟩)
      · exact .inr (.inr ⟨s.turns, h⟩)

/-- A predicate that no change of the port, the schedule or the command sequence can break, and that every command, every fault
and every lane step keeps, is kept by every step. -/
theorem step_keeps {P : State → Prop}
    (hport : ∀ s turns cmds port resp, P s → P { s with turns := turns, cmds := cmds, port := port, resp := resp })
    (hraise : ∀ s c, s.fault = none → P s → P (s.raise c))
    (hexec : ∀ i s t, s.fault = none → P s → exec i s = .next t → P t)
    (hrx : ∀ line low s, P s → P (rxPush line low s))
    (htx : ∀ s, P s → P (txPop s))
    {s t : State} (h : step s = .next t) (hs : P s) : P t := by
  obtain ⟨hf, h⟩ := step_cases h
  have hts : ∀ ts, P { s with turns := ts } := fun ts => hport s ts s.cmds s.port s.resp hs
  have hrun : ∀ w s', s'.fault = none → P s' → runCommand w s' = .next t → P t := by
    intro w s' hf' hs' hr
    rcases runCommand_cases hr with ⟨i, _, hi⟩ | ⟨e, _, rfl⟩
    · exact hexec i s' t hf' hs' hi
    · exact hraise s' _ hf' hs'
  rcases h with ⟨line, low, ts, _, rfl⟩ | ⟨ts, rfl⟩ | ⟨ts, h⟩
  · exact hrx line low _ (hts ts)
  · exact htx _ (hts ts)
  · rcases hostTurn_cases h with rfl | ⟨w, _, hr⟩ | ⟨w, ws, _, _, hr⟩
    · exact hts ts
    · exact hrun w { s with turns := ts } hf (hts ts) hr
    · exact hrun w (State.accept { s with turns := ts } w ws) hf (hport s ts ws (some w) none hs) hr

end Sys2Proof.Machine
end

