-- ==== Sys2Proof/Tests/Slice0.lean ====
section
/-! SUPPORT. The model's own tests, with expected values from 95_test_vectors and the rules cited, and one witness theorem per
obligation that has hypotheses: a concrete state and operands that meet them together. -/

namespace Sys2Proof.Tests

open Sys2Proof Sys2Proof.Machine

/-! ### Well-formed and ill-formed commands -/

/-- Every operand of CONFIG at the top of its field. -/
theorem test_config_top_wellFormed : (Instr.config (.gpio 254) (.gpio 254) 15 15 15).wellFormed = true := by decide

/-- 255 is the code of UNSET, no pin number (R93). -/
theorem test_config_txPin_illFormed : (Instr.config (.gpio 255) .unset 0 1 0).wellFormed = false := by decide

theorem test_config_rxPin_illFormed : (Instr.config .unset (.gpio 255) 0 1 0).wellFormed = false := by decide

theorem test_config_rxLane_illFormed : (Instr.config .unset .unset 16 1 0).wellFormed = false := by decide

theorem test_config_txLane_illFormed : (Instr.config .unset .unset 0 16 0).wellFormed = false := by decide

theorem test_config_inst_illFormed : (Instr.config .unset .unset 0 1 16).wellFormed = false := by decide

/-! ### Decoding words written out from R92 and R97 -/

/-- E-3. -/
theorem test_decode_config : decode 0x0100000001320504#64 = .ok (.config (.gpio 4) (.gpio 5) 2 3 1) := by rfl

/-- E-2: both pins UNSET. -/
theorem test_decode_config_unset : decode 0x010000000010FFFF#64 = .ok (.config .unset .unset 0 1 0) := by rfl

/-- E-5. -/
theorem test_decode_start : decode 0x0200FFFF0001C200#64 = .ok (.start 0xFFFF#16 115200#32) := by rfl

/-- E-6. -/
theorem test_decode_stop : decode 0x0300000000000000#64 = .ok .stop := by rfl

/-- E-6. -/
theorem test_decode_end : decode 0x0400000000000000#64 = .ok .endCmd := by rfl

/-- E-7. -/
theorem test_decode_available : decode 0x1000000000000000#64 = .ok .available := by rfl

/-- E-7. -/
theorem test_decode_peek : decode 0x1100000000000000#64 = .ok .peek := by rfl

/-- E-7. -/
theorem test_decode_read : decode 0x1200000000000000#64 = .ok .read := by rfl

/-- E-8. -/
theorem test_decode_write : decode 0x1300000000000041#64 = .ok (.write 0x41#8) := by rfl

/-- E-9. -/
theorem test_decode_flush : decode 0x1400000000000000#64 = .ok .flush := by rfl

/-- E-9. -/
theorem test_decode_ready : decode 0x1500000000000000#64 = .ok .ready := by rfl

/-- E-10. -/
theorem test_decode_divcalc : decode 0x2000000000002580#64 = .ok (.divcalc 9600#32) := by rfl

/-- E-11. -/
theorem test_decode_getdiv : decode 0x2100000000000000#64 = .ok .getdiv := by rfl

/-- E-12. -/
theorem test_decode_getchan_rx : decode 0x2200000000000000#64 = .ok (.getchan .rx) := by rfl

/-- E-12. -/
theorem test_decode_getchan_tx : decode 0x2200000000000001#64 = .ok (.getchan .tx) := by rfl

/-- E-13, E-14. -/
theorem test_decode_illegal :
    decode 0x0000000000000000#64 = .error .illegalOp ∧ decode 0x0500000000000000#64 = .error .illegalOp
    ∧ decode 0x1600000000000000#64 = .error .illegalOp ∧ decode 0x2300000000000000#64 = .error .illegalOp
    ∧ decode 0xFF00000000000000#64 = .error .illegalOp := ⟨rfl, rfl, rfl, rfl, rfl⟩

/-- E-15 to E-20. -/
theorem test_decode_reserved :
    decode 0x0300000000000001#64 = .error .reserved ∧ decode 0x1300000000000141#64 = .error .reserved
    ∧ decode 0x0100000010100504#64 = .error .reserved ∧ decode 0x020100000001C200#64 = .error .reserved
    ∧ decode 0x2000000100002580#64 = .error .reserved ∧ decode 0x2200000000000002#64 = .error .reserved :=
  ⟨rfl, rfl, rfl, rfl, rfl, rfl⟩

/-- E-21: the opcode check comes first. -/
theorem test_decode_illegal_first : decode 0x1F00000000000001#64 = .error .illegalOp := by rfl

/-- R105: `config tx=4, rx=5` and `getchan tx`. -/
theorem test_encode_worked :
    encode (.config (.gpio 4) (.gpio 5) 0 1 0) = 0x0100000000100504#64
    ∧ encode (.getchan .tx) = 0x2200000000000001#64 := by decide

/-- R103 to R105: the four worked texts. -/
theorem test_assemble_worked :
    assemble "config tx=4, rx=5" = some (.config (.gpio 4) (.gpio 5) 0 1 0)
    ∧ assemble "start 115200, 0" = some (.start 0#16 115200#32)
    ∧ assemble "write 0x41" = some (.write 0x41#8)
    ∧ assemble "getchan tx" = some (.getchan .tx) := by decide +kernel

/-- R104: the pseudo-instructions. -/
theorem test_assemble_pseudo :
    assemble "start" = some (.start 0#16 115200#32)
    ∧ assemble "start 9600" = some (.start 0#16 9600#32)
    ∧ assemble "config" = some (.config .unset .unset 0 1 0)
    ∧ assemble "config 4, 5" = some (.config (.gpio 4) (.gpio 5) 0 1 0)
    ∧ assemble "write 256" = none := by decide +kernel

/-! ### The divisor calculator -/

/-- DV-1, DV-3, DV-6, DV-9. -/
theorem test_divcalc_exact :
    divCalc .exactTrunc 125000000#32 115200#32 = .inRange 135#16 162#8
    ∧ divCalc .exactTrunc 125000000#32 300#32 = .inRange 52083#16 85#8
    ∧ divCalc .exactTrunc 125000000#32 15625000#32 = .inRange 1#16 0#8
    ∧ divCalc .exactTrunc 125000000#32 1000000#32 = .inRange 15#16 160#8 := by decide

/-- DV-5, DV-7, DV-16: out of range, and exact. -/
theorem test_divcalc_out :
    divCalc .exactTrunc 125000000#32 238#32 = .outOfRange 7812500 119
    ∧ divCalc .exactTrunc 125000000#32 15625001#32 = .outOfRange 15625000 15625001
    ∧ divCode (divCalc .exactTrunc 0#32 115200#32) = 0#32 := by decide

/-- DV-4: the two arithmetics differ. -/
theorem test_divcalc_float :
    divCode (divCalc .exactTrunc 125000000#32 239#32) = 0xFF609100#32
    ∧ divCode (divCalc .float32Trunc 125000000#32 239#32) = 0xFF609200#32 := by decide +kernel

/-- DV-1, DV-23, DV-24 under `float32_trunc`. -/
theorem test_divcalc_float_wraps :
    divCalc .float32Trunc 125000000#32 115200#32 = .inRange 135#16 162#8
    ∧ divCalc .float32Trunc 125000000#32 536870912#32 = .outOfRange 0 1
    ∧ divCode (divCalc .float32Trunc 125000000#32 536871151#32) = 0xFF609200#32 := by decide +kernel

/-! ### States -/

/-- A launch with room for each program at one place alone: slot 1 is used by another driver, so the RX program of two slots
goes to slot 2 and the TX program of one slot to slot 0, whatever the draws. -/
def tightLaunch : Launch where
  sysclk        := 125000000#32
  fifoDepth     := 4
  ninst         := 2
  npins         := 30
  progMemSize   := 4
  rxProgLen     := 2
  txProgLen     := 1
  divArith      := .exactTrunc
  overrunPolicy := .always .dropOldest
  pmUsed        := [(0, 1)]

/-- The reset state of that launch. -/
def fresh : State := State.resetAt tightLaunch

/-- After `config tx=4, rx=5` (CT-2). -/
def configured : State :=
  { fresh with rx := { fresh.rx with pin := .gpio 5 }, tx := { fresh.tx with pin := .gpio 4 } }

/-- The divisor of DV-1. -/
def div115200 : DivResult := .inRange 135#16 162#8

/-- After `start 115200` on `configured`, as CT-5 gives it, with the offsets 2 and 0. -/
def live : State :=
  { configured with
    fabric := txFabric (rxFabric configured.fabric 0 5 0 2 2 ⟨135#16, 162#8⟩) 0 4 1 0 1 ⟨135#16, 162#8⟩
    div := some div115200
    started := true
    rx := { configured.rx with offset := some 2, divisor := some div115200, enabled := true }
    tx := { configured.tx with offset := some 0, divisor := some div115200, enabled := true }
    draws := 2
    resp := some 0#32 }

/-- `live` with words in the RX FIFO. -/
def rxHolding (q : List Word) : State := live.setRxq q

/-- `live` with `n` words in the TX FIFO, each 0x30. -/
def txHolding (n : Nat) : State := live.setTxq (List.replicate n 0x30#32)

/-- `live` as a START with an out-of-range divisor leaves it (CT-20). -/
def mistimed : State :=
  { live with
    div := some (.outOfRange 7812500 119)
    rx := { live.rx with divisor := some (.outOfRange 7812500 119) }
    tx := { live.tx with divisor := some (.outOfRange 7812500 119) } }

/-- `configured` with one pin alone set (CT-7, CT-8). -/
def rxOnly : State := { configured with tx := fresh.tx }

def txOnly : State := { configured with rx := fresh.rx }

/-- `configured` where neither program fits, as in CT-19. -/
def noRoom : State := { configured with launch := { tightLaunch with progMemSize := 2 } }

/-- `configured` where the RX program fits, and the TX program does not even before RX is loaded. -/
def noTxRoom : State := { configured with launch := { tightLaunch with txProgLen := 3 } }

/-- The start state of CT-18: 32 free slots and two programs of 20, so the TX program fits until RX is loaded. -/
def noTxRoomLeft : State :=
  { configured with
    fabric := { configured.fabric with pm := [] }
    launch := { tightLaunch with progMemSize := 32, rxProgLen := 20, txProgLen := 20, pmUsed := [] } }

/-! ### Channel control -/

/-- CT-1, CT-2. -/
theorem test_getchan :
    (∃ t, exec (.getchan .rx) fresh = .next t ∧ t.resp = some 0x000FF0FF#32)
    ∧ (∃ t, exec (.getchan .tx) fresh = .next t ∧ t.resp = some 0x000FF1FF#32)
    ∧ (∃ t, exec (.getchan .rx) configured = .next t ∧ t.resp = some 0x000FF005#32)
    ∧ (∃ t, exec (.getchan .tx) configured = .next t ∧ t.resp = some 0x000FF104#32) :=
  ⟨⟨_, rfl, by decide⟩, ⟨_, rfl, by decide⟩, ⟨_, rfl, by decide⟩, ⟨_, rfl, by decide⟩⟩

/-- CT-4: `0x80000005 | (o_rx << 12)` and `0x80000104 | (o_tx << 12)`. -/
theorem test_getchan_live :
    (∃ t, exec (.getchan .rx) live = .next t ∧ t.resp = some 0x80002005#32)
    ∧ (∃ t, exec (.getchan .tx) live = .next t ∧ t.resp = some 0x80000104#32) :=
  ⟨⟨_, rfl, by decide⟩, ⟨_, rfl, by decide⟩⟩

/-- CT-2: the record is written and nothing else. -/
theorem test_config : exec (.config (.gpio 4) (.gpio 5) 0 1 0) fresh = .next { configured with resp := some 0#32 } := by rfl

/-- CT-10, CT-15, CT-16, CT-17: the code numbers of CONFIG's faults. -/
theorem test_config_faults :
    (∃ t, exec (.config (.gpio 4) (.gpio 5) 0 1 0) live = .next t ∧ t.fault.map FaultCode.number = some 4)
    ∧ (∃ t, exec (.config (.gpio 30) (.gpio 5) 0 1 0) fresh = .next t ∧ t.fault.map FaultCode.number = some 3)
    ∧ (∃ t, exec (.config (.gpio 4) (.gpio 5) 4 1 0) fresh = .next t ∧ t.fault.map FaultCode.number = some 3)
    ∧ (∃ t, exec (.config (.gpio 4) (.gpio 5) 0 1 2) fresh = .next t ∧ t.fault.map FaultCode.number = some 3) :=
  ⟨⟨_, rfl, rfl⟩, ⟨_, rfl, rfl⟩, ⟨_, rfl, rfl⟩, ⟨_, rfl, rfl⟩⟩

/-- `configured` once ConfigureRX is done inside START. -/
def rxDone : State :=
  ((((configured.latchDiv div115200).writes (rxPinWrites 0 5)).drawn.writes (slotWrites 0 .rx 2 2)).writes
    (rxLaneWrites 0 5 0 2 ⟨135#16, 162#8⟩)).markRxEnabled 2 div115200

/-- CT-4: START on `configured` gives `live`. -/
theorem test_start : exec (.start 0#16 115200#32) configured = .next live := by
  have hd : configured.divFor 115200#32 = div115200 := by decide
  have hr : configureRx div115200 ⟨135#16, 162#8⟩ (configured.latchDiv div115200) = .ok rxDone := by
    have h := progLoad_only (prog := .rx) (n := 2) (o := 2)
      (s := (configured.latchDiv div115200).writes (rxPinWrites 0 5)) (by decide +kernel)
    unfold configureRx
    change (match progLoad .rx 2 ((configured.latchDiv div115200).writes (rxPinWrites 0 5)) with
      | .error s' => _ | .ok (o, s') => _) = _
    rw [h]; rfl
  have ht : configureTx div115200 ⟨135#16, 162#8⟩ rxDone
      = .ok ((((rxDone.writes (txPinWrites 0 4)).drawn.writes (slotWrites 0 .tx 0 1)).writes
          (txLaneWrites 0 4 1 0 ⟨135#16, 162#8⟩)).markTxEnabled 0 div115200) := by
    have h := progLoad_only (prog := .tx) (n := 1) (o := 0) (s := rxDone.writes (txPinWrites 0 4)) (by decide +kernel)
    unfold configureTx
    change (match progLoad .tx 1 (rxDone.writes (txPinWrites 0 4)) with
      | .error s' => _ | .ok (o, s') => _) = _
    rw [h]; rfl
  have hs : exec (.start 0#16 115200#32) configured = .next (startChannels 115200#32 configured) := by rfl
  have hc : clkDivOf div115200 configured = ⟨135#16, 162#8⟩ := rfl
  rw [hs]
  simp only [startChannels, hd, hc, hr, ht]
  rfl

/-- CT-5, some fields of the fabric of `live`. -/
theorem test_live_fabric :
    (live.fabric.laneCfg 0 0).jmpPin = some 5 ∧ (live.fabric.laneCfg 0 0).pushThresh = some 32
    ∧ (live.fabric.laneCfg 0 0).outBase = none ∧ (live.fabric.laneCfg 0 1).sidesetBase = some 4
    ∧ (live.fabric.laneCfg 0 1).clkdiv = some ⟨135#16, 162#8⟩ ∧ (live.fabric.laneCfg 0 2) = LaneCfg.unowned
    ∧ Table.get live.fabric.pull 5 = some .up ∧ Table.get live.fabric.pull 4 = none
    ∧ Table.get live.fabric.pinout (key 0 4) = some true ∧ Table.get live.fabric.rxf (key 0 1) = some [] := by
  decide +kernel

/-- CT-9, CT-11 and CT-13 (F-7), CT-12, F-5: the code numbers of START's faults. -/
theorem test_start_faults :
    (∃ t, exec (.start 0#16 0#32) live = .next t ∧ t.fault.map FaultCode.number = some 5)
    ∧ (∃ t, exec (.start 0#16 0#32) configured = .next t ∧ t.fault.map FaultCode.number = some 6)
    ∧ (∃ t, exec (.start 0#16 115200#32) { configured with tx := { configured.tx with pin := .gpio 5, lane := 0 } } = .next t
        ∧ t.fault = some (.pinConflict 5))
    ∧ (∃ t, exec (.start 0#16 115200#32) { configured with tx := { configured.tx with lane := 0 } } = .next t
        ∧ t.fault = some (.laneConflict 0)) :=
  ⟨⟨_, rfl, rfl⟩, ⟨_, rfl, rfl⟩, ⟨_, rfl, rfl⟩, ⟨_, rfl, rfl⟩⟩

/-- CT-9: STOP changes nothing but the port and its response. -/
theorem test_stop : exec .stop { live with resp := none } = .next live := by rfl

/-- CT-9. -/
theorem test_end : exec .endCmd { live with resp := none } = .next live := by rfl

/-! ### The stream port -/

/-- S-1, and after two pushes S-3. -/
theorem test_available :
    (∃ t, exec .available live = .next t ∧ t.resp = some 0#32)
    ∧ (∃ t, exec .available (rxPush (frameOf 0x42#8) 0xABCDEF#24 (rxPush (frameOf 0x41#8) 0#24 live)) = .next t
        ∧ t.resp = some 2#32 ∧ t.rxq = [0x41000000#32, 0x42ABCDEF#32]) :=
  ⟨⟨_, rfl, by decide⟩, ⟨_, rfl, by decide +kernel, by decide +kernel⟩⟩

/-- S-5: PEEK pops one word into the cache. -/
theorem test_peek :
    ∃ t, exec .peek (rxHolding [0x41000000#32, 0x42000000#32]) = .next t
      ∧ t.resp = some 0x41#32 ∧ t.peek = some 0x41#8 ∧ t.rxq = [0x42000000#32] :=
  ⟨_, rfl, by decide, by decide, by decide⟩

/-- S-2: PEEK with nothing to answer. -/
theorem test_peek_empty : ∃ t, exec .peek live = .next t ∧ t.resp = some 0xFFFFFFFF#32 ∧ t.peek = none :=
  ⟨_, rfl, by decide, by decide⟩

/-- S-4, S-7: the low bits are ignored, and the byte is zero-extended. -/
theorem test_read :
    (∃ t, exec .read (rxHolding [0xFF123456#32]) = .next t ∧ t.resp = some 0xFF#32)
    ∧ (∃ t, exec .read (rxHolding [0x80000000#32]) = .next t ∧ t.resp = some 0x80#32 ∧ t.rxq = []) :=
  ⟨⟨_, rfl, by decide⟩, ⟨_, rfl, by decide, by decide⟩⟩

/-- S-10: READ answers from the cache, and leaves the FIFO. -/
theorem test_read_drains :
    ∃ t, exec .read { rxHolding [0x42000000#32] with peek := some 0x41#8 } = .next t
      ∧ t.resp = some 0x41#32 ∧ t.peek = none ∧ t.rxq = [0x42000000#32] :=
  ⟨_, rfl, by decide, by decide, by decide⟩

/-- S-11: the byte goes to the low end of the word. -/
theorem test_write :
    ∃ t, exec (.write 0x80#8) (live.setTxq [0#32, 0xFF#32]) = .next t
      ∧ t.resp = some 1#32 ∧ t.txq = [0#32, 0xFF#32, 0x80#32] :=
  ⟨_, rfl, by decide, by decide⟩

/-- S-12: the ninth WRITE holds; after a TxPop it answers 1. -/
theorem test_write_holds :
    exec (.write 0x38#8) (txHolding 8) = .next (txHolding 8)
    ∧ ∃ t, exec (.write 0x38#8) (txPop (txHolding 8)) = .next t
        ∧ t.resp = some 1#32 ∧ t.txq.length = 8 ∧ t.lineTx = [0x30#8] :=
  ⟨rfl, _, rfl, by decide, by decide, by decide⟩

/-- S-13: FLUSH before START. -/
theorem test_flush : exec .flush fresh = .next { fresh with resp := some 0#32 } := by rfl

/-- S-13: READY before START. -/
theorem test_ready : exec .ready fresh = .next { fresh with resp := some 1#32 } := by rfl

/-- P4, step 1. -/
theorem test_divcalc : exec (.divcalc 239#32) fresh = .next { fresh with resp := some 0xFF609100#32 } := by rfl

/-- F-6. -/
theorem test_divcalc_zero : ∃ t, exec (.divcalc 0#32) fresh = .next t ∧ t.fault.map FaultCode.number = some 6 := ⟨_, rfl, rfl⟩

/-- CT-4, CT-20. -/
theorem test_getdiv :
    (∃ t, exec .getdiv live = .next t ∧ t.resp = some 0x0087A200#32)
    ∧ (∃ t, exec .getdiv mistimed = .next t ∧ t.resp = some 0#32) :=
  ⟨⟨_, rfl, by decide⟩, ⟨_, rfl, by decide⟩⟩

/-- F-12. -/
theorem test_getdiv_fault : ∃ t, exec .getdiv fresh = .next t ∧ t.fault.map FaultCode.number = some 12 := ⟨_, rfl, rfl⟩

/-! ### The lanes and the step -/

/-- LN-2 under `drop_oldest`: the ninth push drops the first byte. -/
theorem test_overrun :
    (rxPush (frameOf 9#8) 0#24 (rxHolding [0x01000000#32, 0x02000000#32, 0x03000000#32, 0x04000000#32, 0x05000000#32,
      0x06000000#32, 0x07000000#32, 0x08000000#32])).rxq
    = [0x02000000#32, 0x03000000#32, 0x04000000#32, 0x05000000#32, 0x06000000#32, 0x07000000#32, 0x08000000#32,
      0x09000000#32] := by decide +kernel

/-- LN-4: the levels of the frame of 0x41, first in time first; LN-6: bits 31:8 are not sent. -/
theorem test_txPop :
    (List.range 10).map (frameOf 0x41#8).getLsbD = [false, true, false, false, false, false, false, true, false, true]
    ∧ (txPop (live.setTxq [0x12345641#32])).lineTx = [0x41#8] := by decide

/-- R275: 1085.0625 and 10850.625 system cycles. -/
theorem test_cycles :
    live.bitCycles = some (mkRat 10850625 10000) ∧ live.frameCycles = some (mkRat 10850625 1000) := by
  decide +kernel

/-- F-1: a word that is no command faults, with the word recorded; F-13: the faulted state has no successor. -/
theorem test_step_fault :
    (∃ t, step (live.present 0#64) = .next t ∧ t.fault = some (.illegalOp 0#64))
    ∧ step { live with fault := some (.illegalOp 0#64) } = .fault (.faulted (.illegalOp 0#64)) :=
  ⟨⟨_, rfl, rfl⟩, rfl⟩

/-- F-2: F_RESERVED comes before F_CFG_AFTER_START. -/
theorem test_step_reserved_first :
    ∃ t, step (live.present 0x0100000010100504#64) = .next t ∧ t.fault.map FaultCode.number = some 2 := ⟨_, rfl, rfl⟩

/-! ### Witnesses: the hypotheses of each obligation met together -/

theorem witness_EncodeThenDecode :
    (Instr.config (.gpio 254) .unset 15 0 15).wellFormed = true ∧ (Instr.start 0xFFFF#16 0#32).wellFormed = true := by decide

theorem witness_DecodeThenEncode : decode 0x010000000FFFFF00#64 = .ok (.config (.gpio 0) .unset 15 15 15) := by rfl

/-- The values 0x00, 0x05 and 0xFF beside the map's ends (E-13, E-14). -/
theorem witness_IllegalOpcodeFaults :
    (∀ op : Op, opcOf 0#64 ≠ op.opc) ∧ (∀ op : Op, opcOf 0x0500000000000000#64 ≠ op.opc)
    ∧ ∀ op : Op, opcOf 0xFF00000000000000#64 ≠ op.opc :=
  ⟨fun op => by cases op <;> decide, fun op => by cases op <;> decide, fun op => by cases op <;> decide⟩

/-- Bits 0 and 55 of STOP, bit 28 of CONFIG, and bit 8 of WRITE (E-15, E-17, E-16). -/
theorem witness_ReservedBitFaults :
    (opcOf 0x0300000000000001#64 = Op.stop.opc ∧ Op.stop.mask.getLsbD 0 = true ∧ (0x0300000000000001#64).getLsbD 0 = true)
    ∧ (opcOf 0x0380000000000000#64 = Op.stop.opc ∧ Op.stop.mask.getLsbD 55 = true
        ∧ (0x0380000000000000#64).getLsbD 55 = true)
    ∧ (opcOf 0x0100000010100504#64 = Op.config.opc ∧ Op.config.mask.getLsbD 28 = true
        ∧ (0x0100000010100504#64).getLsbD 28 = true)
    ∧ (opcOf 0x1300000000000141#64 = 0x13#8 ∧ (0x1300000000000141#64).extractLsb' 8 48 ≠ 0#48) := by decide

/-- `x = 1` and `x` below 65536 (DV-6, DV-4), and the two ways out of range (DV-5, DV-7). -/
theorem witness_ExactDivisorIsTruncatedQuotient :
    (1 ≤ (125000000 : Rat) / (8 * 15625000) ∧ (125000000 : Rat) / (8 * 15625000) < 65536)
    ∧ (1 ≤ (125000000 : Rat) / (8 * 239) ∧ (125000000 : Rat) / (8 * 239) < 65536)
    ∧ ¬(1 ≤ (125000000 : Rat) / (8 * 238) ∧ (125000000 : Rat) / (8 * 238) < 65536)
    ∧ ¬(1 ≤ (125000000 : Rat) / (8 * 15625001) ∧ (125000000 : Rat) / (8 * 15625001) < 65536) := by norm_num

/-- DV-23, and the smallest and a larger quotient `fl32` rounds. -/
theorem witness_FloatDivisorRoundsToNearestEven :
    8#32 * 536870912#32 = 0#32 ∧ 8#32 * 239#32 ≠ 0#32
    ∧ 2 ^ 23 * 2 ^ 41 ≤ 1 * 2 ^ 64 ∧ 2 ^ 23 * 1912 ≤ 125000000 * 2 ^ 64 := by decide

theorem witness_InRangeExactlyBetweenBounds :
    (239#32 : Word) ≠ 0#32 ∧ (divCalc .exactTrunc 125000000#32 239#32).isInRange = true
    ∧ (divCalc .exactTrunc 125000000#32 238#32).isInRange = false
    ∧ (divCalc .exactTrunc 125000000#32 15625000#32).isInRange = true
    ∧ (divCalc .exactTrunc 125000000#32 15625001#32).isInRange = false := by decide

theorem witness_QuantizedDivisorIsClose :
    (115200#32 : Word) ≠ 0#32 ∧ divCalc .exactTrunc 125000000#32 115200#32 = .inRange 135#16 162#8 := by decide

theorem witness_DivisorIsMonotone :
    (115200#32 : Word).toNat ≤ (921600#32 : Word).toNat ∧ (48000000#32 : Word).toNat ≤ (125000000#32 : Word).toNat
    ∧ divCalc .exactTrunc 125000000#32 115200#32 = .inRange 135#16 162#8
    ∧ divCalc .exactTrunc 48000000#32 921600#32 = .inRange 6#16 130#8 := by decide

theorem witness_DivcodeLayout : divCalc .exactTrunc 125000000#32 15625000#32 = .inRange 1#16 0#8 := by decide

/-- The corner cases of DIVCALC (DV-7, DV-15, DV-6). -/
theorem witness_DivcalcAnswers :
    (125000000#32 : Word).toNat < 8 * (15625001#32 : Word).toNat
    ∧ 65536 * (8 * (1#32 : Word).toNat) ≤ (125000000#32 : Word).toNat
    ∧ (125000000#32 : Word).toNat = 8 * (15625000#32 : Word).toNat := by decide

theorem witness_GetdivAnswers : live.div = some div115200 ∧ fresh.div = none := ⟨rfl, rfl⟩

/-- The last pin, lane and instance. -/
theorem witness_ConfigRecordsOperands :
    fresh.started = false ∧ 29 < fresh.launch.npins ∧ 3 < 4 ∧ 1 < fresh.launch.ninst := by decide

/-- The first pin, lane and instance the platform does not have (CT-15 to CT-17). -/
theorem witness_ConfigFaults :
    live.started = true ∧ fresh.started = false ∧ fresh.launch.npins ≤ 30 ∧ fresh.launch.ninst ≤ 2 := by decide

/-- F-5, F-6, CT-13 and CT-12. -/
theorem witness_StartFaultsInOrder :
    live.started = true ∧ configured.started = false ∧ configured.rx.pin = .gpio 5 ∧ configured.tx.pin = .gpio 4
    ∧ (∃ s : State, s.started = false ∧ s.rx.pin = .gpio 5 ∧ s.tx.pin = .gpio 5)
    ∧ ∃ s : State, s.started = false ∧ s.rx.pin = .gpio 5 ∧ s.tx.pin = .gpio 4 ∧ s.rx.lane = s.tx.lane :=
  ⟨rfl, rfl, rfl, rfl, ⟨{ configured with tx := { configured.tx with pin := .gpio 5 } }, rfl, rfl, rfl⟩,
    ⟨{ configured with tx := { configured.tx with lane := 0 } }, rfl, rfl, rfl, rfl⟩⟩

theorem witness_StartWithNoPinOnlyLatches : fresh.started = false ∧ fresh.rx.pin = .unset ∧ fresh.tx.pin = .unset :=
  ⟨rfl, rfl, rfl⟩

theorem witness_StartConfiguresRx :
    rxOnly.started = false ∧ rxOnly.rx.pin = .gpio 5 ∧ rxOnly.tx.pin = .unset
    ∧ fits rxOnly.fabric.pm rxOnly.launch.progMemSize rxOnly.inst rxOnly.launch.rxProgLen ≠ [] := by decide +kernel

theorem witness_StartConfiguresTx :
    txOnly.started = false ∧ txOnly.rx.pin = .unset ∧ txOnly.tx.pin = .gpio 4
    ∧ fits txOnly.fabric.pm txOnly.launch.progMemSize txOnly.inst txOnly.launch.txProgLen ≠ [] := by decide +kernel

theorem witness_StartConfiguresRxThenTx :
    configured.started = false ∧ configured.rx.pin = .gpio 5 ∧ configured.tx.pin = .gpio 4
    ∧ configured.rx.lane ≠ configured.tx.lane
    ∧ fits configured.fabric.pm configured.launch.progMemSize configured.inst configured.launch.rxProgLen ≠ []
    ∧ ∀ o ∈ fits configured.fabric.pm configured.launch.progMemSize configured.inst configured.launch.rxProgLen,
      fits (configured.fabric.applyAll (slotWrites configured.inst .rx o configured.launch.rxProgLen)).pm
        configured.launch.progMemSize configured.inst configured.launch.txProgLen ≠ [] := by decide +kernel

/-- No room for the RX program, no room for the TX program from the start, and CT-18. -/
theorem witness_StartWithoutRoomFaults :
    noRoom.started = false ∧ noRoom.pinConflict = none ∧ noRoom.laneConflict = none ∧ noRoom.rx.pin = .gpio 5
    ∧ fits noRoom.fabric.pm noRoom.launch.progMemSize noRoom.inst noRoom.launch.rxProgLen = []
    ∧ noTxRoom.started = false ∧ noTxRoom.pinConflict = none ∧ noTxRoom.laneConflict = none
    ∧ noTxRoom.tx.pin = .gpio 4
    ∧ fits noTxRoom.fabric.pm noTxRoom.launch.progMemSize noTxRoom.inst noTxRoom.launch.rxProgLen ≠ []
    ∧ fits noTxRoom.fabric.pm noTxRoom.launch.progMemSize noTxRoom.inst noTxRoom.launch.txProgLen = []
    ∧ noTxRoomLeft.started = false ∧ noTxRoomLeft.pinConflict = none ∧ noTxRoomLeft.laneConflict = none
    ∧ noTxRoomLeft.rx.pin = .gpio 5 ∧ noTxRoomLeft.tx.pin = .gpio 4
    ∧ fits noTxRoomLeft.fabric.pm 32 0 20 ≠ []
    ∧ ∀ o ∈ fits noTxRoomLeft.fabric.pm 32 0 20,
      fits (noTxRoomLeft.fabric.applyAll (slotWrites 0 .rx o 20)).pm 32 0 20 = [] := by
  decide +kernel

theorem witness_FrameIsIgnored : configured.started = false ∧ (115200#32 : Word) ≠ 0#32 := by decide

/-- START with both pins set, with one of them UNSET (CT-7, CT-8), and with both UNSET. -/
theorem witness_StartTouchesOnlySetChannels :
    exec (.start 0#16 115200#32) configured = .next live
    ∧ (rxOnly.tx.pin = .unset ∧ ∃ u, exec (.start 0#16 115200#32) rxOnly = .next u)
    ∧ (txOnly.rx.pin = .unset ∧ ∃ u, exec (.start 0#16 115200#32) txOnly = .next u)
    ∧ fresh.rx.pin = .unset ∧ fresh.tx.pin = .unset ∧ ∃ u, exec (.start 0#16 115200#32) fresh = .next u :=
  ⟨test_start, ⟨rfl, exec_answers_next _ _⟩, ⟨rfl, exec_answers_next _ _⟩, rfl, rfl, exec_answers_next _ _⟩

/-- ConfigureTX succeeds, and the first three writes route the pin. -/
theorem witness_TxTakeoverIsGlitchFree :
    rxDone.tx.pin = .gpio 4 ∧ (∃ t, configureTx div115200 ⟨135#16, 162#8⟩ rxDone = .ok t)
    ∧ (txPinWrites 0 4 <+: txPinWrites 0 4 ++ slotWrites 0 .tx 0 1 ++ txLaneWrites 0 4 1 0 ⟨135#16, 162#8⟩)
    ∧ Table.get fresh.fabric.funcsel 4 ≠ some (.coproc 0)
    ∧ Table.get (fresh.fabric.applyAll (txPinWrites 0 4)).funcsel 4 = some (.coproc 0) := by
  refine ⟨rfl, ?_, by simp, by decide, by decide⟩
  rcases configureTx_cases div115200 ⟨135#16, 162#8⟩ rxDone with ⟨h, _⟩ | ⟨_, _, h, _⟩ | ⟨_, _, _, _, h⟩
  · exact absurd h (by decide)
  · exact absurd h (by decide +kernel)
  · exact ⟨_, h⟩

/-- ConfigureRX succeeds (ConfigureTX: witness_TxTakeoverIsGlitchFree), and all the writes enable the lane, for RX and for TX. -/
theorem witness_EnableIsTheLastWrite :
    (configured.rx.pin = .gpio 5 ∧ ∃ t, configureRx div115200 ⟨135#16, 162#8⟩ configured = .ok t)
    ∧ (fresh.fabric.laneCfg 0 0).en ≠ some true
    ∧ ((fresh.fabric.applyAll (rxPinWrites 0 5 ++ slotWrites 0 .rx 2 2 ++ rxLaneWrites 0 5 0 2 ⟨135#16, 162#8⟩)).laneCfg 0 0).en
        = some true
    ∧ (fresh.fabric.laneCfg 0 1).en ≠ some true
    ∧ ((fresh.fabric.applyAll (txPinWrites 0 4 ++ slotWrites 0 .tx 0 1 ++ txLaneWrites 0 4 1 0 ⟨135#16, 162#8⟩)).laneCfg 0 1).en
        = some true := by
  refine ⟨⟨rfl, ?_⟩, by decide +kernel⟩
  rcases configureRx_cases div115200 ⟨135#16, 162#8⟩ configured with ⟨h, _⟩ | ⟨_, _, h, _⟩ | ⟨_, _, _, _, h⟩
  · exact absurd h (by decide)
  · exact absurd h (by decide +kernel)
  · exact ⟨_, h⟩

theorem witness_ProgramsAreLoadedApart :
    launchSound configured.launch = true ∧ configured.started = false ∧ configured.rx.pin = .gpio 5
    ∧ configured.tx.pin = .gpio 4 ∧ exec (.start 0#16 115200#32) configured = .next live ∧ live.started = true :=
  ⟨by decide, rfl, rfl, rfl, test_start, rfl⟩

theorem witness_AvailableCountsWords : live.rx.enabled = true := rfl

/-- Each case of PEEK and of READ: a cached byte, nothing, and a word. -/
theorem witness_PeekAnswers_ReadAnswers :
    live.rx.enabled = true ∧ ({ live with peek := some 0x41#8 } : State).peek = some 0x41#8
    ∧ live.peek = none ∧ live.rxq = [] ∧ (rxHolding [0x41000000#32]).rx.enabled = true
    ∧ (rxHolding [0x41000000#32]).peek = none ∧ (rxHolding [0x41000000#32]).rxq = [0x41000000#32] := by decide

theorem witness_UnconfiguredStreamFaults : fresh.rx.enabled = false ∧ fresh.tx.enabled = false := ⟨rfl, rfl⟩

/-- One word short of full, and full. -/
theorem witness_WriteAppendsOrHolds :
    (txHolding 7).tx.enabled = true ∧ (txHolding 7).txq.length ≠ (txHolding 7).txCap
    ∧ (txHolding 8).tx.enabled = true ∧ (txHolding 8).txq.length = (txHolding 8).txCap := by decide

/-- A first PEEK that finds a word, one that finds the cache, and one that finds nothing (`live`; S-8). -/
theorem witness_SecondPeekChangesNothing :
    (live.rx.enabled = true ∧ (∃ t, exec .peek live = .next t) ∧ live.peek = none ∧ live.rxq = []
      ∧ 1 ≤ live.launch.fifoDepth) ∧
    (rxHolding [0x41000000#32]).rx.enabled = true ∧ (∃ t, exec .peek (rxHolding [0x41000000#32]) = .next t)
    ∧ (rxHolding [0x41000000#32]).rxq ≠ [] ∧ ({ live with peek := some 0x41#8 } : State).peek ≠ none :=
  ⟨⟨rfl, ⟨_, rfl⟩, rfl, by decide, by decide⟩, rfl, ⟨_, rfl⟩, by decide, by decide⟩

theorem witness_ReadAfterPeekAnswersThePeek :
    (rxHolding [0x41000000#32]).rx.enabled = true
    ∧ ∃ t, exec .peek (rxHolding [0x41000000#32]) = .next t ∧ t.peek = some 0x41#8 :=
  ⟨rfl, _, rfl, by decide⟩

theorem witness_EmptyChannelStaysEmpty :
    live.started = true ∧ live.rx.enabled = true ∧ live.peek = none ∧ live.rxq = [] ∧ ∃ t, exec .read live = .next t :=
  ⟨rfl, rfl, rfl, by decide, _, rfl⟩

theorem witness_CacheIsFilledByPeekAndDrainedByRead :
    (∃ t, exec .ready live = .next t) ∧ (∃ t, exec .peek (rxHolding [0x41000000#32]) = .next t ∧ t.peek ≠ none)
    ∧ ∃ t, exec .read { live with peek := some 0x41#8 } = .next t ∧ t.peek = none :=
  ⟨⟨_, rfl⟩, ⟨_, rfl, by decide⟩, ⟨_, rfl, by decide⟩⟩

/-- Room for one word more, valid timing, and a well-formed frame. -/
theorem witness_RxPushAppendsFrameByte :
    (rxHolding (List.replicate 7 0#32)).rx.enabled = true
    ∧ (rxHolding (List.replicate 7 0#32)).rxq.length < 2 * (rxHolding (List.replicate 7 0#32)).launch.fifoDepth
    ∧ (rxHolding (List.replicate 7 0#32)).timingValid = true
    ∧ (frameOf 0x41#8).getLsbD 0 = false ∧ (frameOf 0x41#8).getLsbD 9 = true := by decide

/-- A full FIFO, under each of the two policies the statement names, with valid timing and a well-formed frame. -/
theorem witness_OverrunFollowsThePolicy :
    1 ≤ (rxHolding (List.replicate 8 0#32)).launch.fifoDepth ∧ (rxHolding (List.replicate 8 0#32)).rx.enabled = true
    ∧ (rxHolding (List.replicate 8 0#32)).rxq.length = 2 * (rxHolding (List.replicate 8 0#32)).launch.fifoDepth
    ∧ (rxHolding (List.replicate 8 0#32)).launch.overrunPolicy = .always .dropOldest
    ∧ ({ rxHolding (List.replicate 8 0#32) with
          launch := { tightLaunch with overrunPolicy := .always .dropNewest } } : State).rxq.length = 8
    ∧ (rxHolding (List.replicate 8 0#32)).timingValid = true
    ∧ (frameOf 0x41#8).getLsbD 0 = false ∧ (frameOf 0x41#8).getLsbD 9 = true := by decide

theorem witness_TxPopSendsTheOldestByte :
    live.tx.enabled = true ∧ live.txq = [] ∧ (txHolding 1).tx.enabled = true ∧ (txHolding 1).txq = [0x30#32] := by decide

/-- The block invariant in states before and after START, and with one pin UNSET. -/
theorem witness_IdleChannelsHaveNoLaneStep :
    fresh.blockInv ∧ fresh.rx.pin = .unset ∧ fresh.fault = none ∧ fresh.started = false
    ∧ live.blockInv ∧ rxOnly.blockInv ∧ rxOnly.tx.pin = .unset :=
  ⟨by decide, by decide, by decide, by decide, by decide, by decide, by decide⟩

/-- A full RX FIFO. -/
theorem witness_LaneStepsNeverShrinkRx :
    1 ≤ (rxHolding (List.replicate 8 0#32)).launch.fifoDepth
    ∧ (rxHolding (List.replicate 8 0#32)).rxq.length ≤ 2 * (rxHolding (List.replicate 8 0#32)).launch.fifoDepth := by decide

/-- Two bytes, as in P1. -/
theorem witness_LoopbackRoundTrip :
    live.rx.enabled = true ∧ live.tx.enabled = true ∧ live.timingValid = true ∧ live.peek = none ∧ live.rxq = []
    ∧ live.txq = [] ∧ 0 < live.txCap
    ∧ [(0x48#8, 1#24), (0x69#8, 2#24)].length ≤ 2 * live.launch.fifoDepth := by decide

/-- A pending word on the host's turn, the next word of the sequence with the schedule ended, a word that is no command (E-16), and
a turn of each lane. -/
theorem witness_StepRunsTheDecodedCommand :
    (live.present 0x1000000000000000#64).fault = none ∧ decode 0x1000000000000000#64 = .ok .available
    ∧ (live.present 0x1000000000000000#64).turns = [.host]
    ∧ (live.present 0x1000000000000000#64).port = some 0x1000000000000000#64
    ∧ ({ live with cmds := [0x1000000000000000#64] } : State).port = none
    ∧ ({ live with cmds := [0x1000000000000000#64] } : State).turns = []
    ∧ (({ live with cmds := [0x1000000000000000#64] } : State).hostWaits && live.txFair) = false
    ∧ decode 0x1300000000000141#64 = .error .reserved
    ∧ (live.present 0x1300000000000141#64).fault = none ∧ (live.present 0x1300000000000141#64).turns = [.host]
    ∧ (live.present 0x1300000000000141#64).port = some 0x1300000000000141#64
    ∧ ({ live with turns := [.rxPush (frameOf 0x41#8) 0#24, .txPop] } : State).fault = none
    ∧ ({ live with turns := [.rxPush (frameOf 0x41#8) 0#24, .txPop] } : State).turns
        = .rxPush (frameOf 0x41#8) 0#24 :: [.txPop]
    ∧ ({ live with turns := [.txPop] } : State).turns = .txPop :: [] := by decide

theorem witness_FaultedStateIsFinal :
    ({ live with fault := some (.pinConflict 4) } : State).fault = some (.pinConflict 4) ∧ live.fault = none := by decide

/-- A fault raised before any write, and F_PROG_NO_SPACE. -/
theorem witness_FaultsComeBeforeWrites :
    (∃ t, exec .peek fresh = .next t ∧ fresh.fault = none ∧ t.fault = some (.rxUnconfigured (encode .peek)))
    ∧ ∃ t, exec (.start 0#16 115200#32) noRoom = .next t ∧ noRoom.fault = none ∧ t.fault = some (.progNoSpace .rx) := by
  refine ⟨⟨_, rfl, rfl, rfl⟩, ?_⟩
  have hs : exec (.start 0#16 115200#32) noRoom = .next (startChannels 115200#32 noRoom) := by rfl
  rcases startChannels_cases 115200#32 noRoom with ⟨_, _, _, h⟩ | ⟨_, ⟨h, _⟩ | ⟨_, _, _, h, _⟩, _⟩
  · exact ⟨_, hs, rfl, by rw [h]; rfl⟩
  · exact absurd h (by decide)
  · exact absurd ((mem_fits _ _ _ _ _).1 h) (fun hf => by
      have : fits noRoom.fabric.pm 2 0 2 = [] := by decide +kernel
      exact absurd ((mem_fits _ _ _ _ _).2 hf) (by
        change _ ∉ fits noRoom.fabric.pm 2 0 2
        rw [this]; simp))

/-- A full TX FIFO under valid timing, and under an out-of-range divisor. -/
theorem witness_HeldWriteUnderFairness :
    ({ txHolding 8 with port := some (encode (.write 0x38#8)) } : State).fault = none
    ∧ (txHolding 8).turns = [] ∧ (txHolding 8).tx.enabled = true ∧ (txHolding 8).txq.length = (txHolding 8).txCap
    ∧ (txHolding 8).timingValid = true
    ∧ ∃ s : State, s.fault = none ∧ s.turns = [] ∧ s.tx.enabled = true ∧ s.port = some (encode (.write 0x38#8))
        ∧ s.txq.length = s.txCap ∧ s.timingValid = false :=
  ⟨by decide, by decide, by decide, by decide, by decide,
    ⟨{ mistimed.setTxq (List.replicate 8 0x30#32) with port := some (encode (.write 0x38#8)) }, by decide⟩⟩

theorem live_clkdivInv : live.clkdivInv := by
  refine ⟨fun _ n f h => ?_, fun _ n f h => ?_, fun _ _ => by decide +kernel⟩ <;> cases h <;> decide +kernel

theorem live_rxConfigured : live.rxConfigured := by
  have h : live.rx.pin = .gpio 5 := rfl
  simp only [State.rxConfigured, h]
  refine fun _ => ⟨?_, ?_, ?_, ?_, ?_, ?_, ?_, ?_, ?_, ?_, ?_, ?_⟩ <;> decide +kernel

theorem live_txConfigured : live.txConfigured := by
  have h : live.tx.pin = .gpio 4 := rfl
  simp only [State.txConfigured, h]
  refine fun _ => ⟨?_, ?_, ?_, ?_, ?_, ?_, ?_, ?_, ?_, ?_, ?_, ?_⟩ <;> decide +kernel

/-- The five invariants hold in `live` with a WRITE to come, and a step runs it: the hypotheses of the StepKeeps statements. -/
theorem witness_StepKeeps :
    ∃ s t : State, s.blockInv ∧ s.recordInv ∧ s.fifoInv ∧ s.configuredInv ∧ s.fabric.wf = true ∧ step s = .next t
      ∧ t.txq = [0x41#32] :=
  ⟨{ live with cmds := [0x1300000000000041#64] }, _, by decide, by decide, by decide +kernel,
    ⟨live_rxConfigured, live_txConfigured, live_clkdivInv, by decide, by decide⟩, by decide +kernel, rfl, by decide +kernel⟩

theorem witness_StartIsNeverUndone : live.started = true ∧ live.rx.enabled = true ∧ live.tx.enabled = true
    ∧ ∃ t, step (live.present (encode .stop)) = .next t := ⟨rfl, rfl, rfl, _, rfl⟩

theorem witness_UsedSlotsAreNeverWritten :
    Table.get live.fabric.pm (key 0 1) = some .foreign ∧ Table.get live.fabric.pm (key 0 2) = some (.code .rx 2 0)
    ∧ ∃ t, step (live.present (encode .stop)) = .next t := ⟨by decide +kernel, by decide +kernel, _, rfl⟩

theorem witness_LineAndLaunchUnderAStep :
    ∃ t, step { txHolding 1 with turns := [.txPop] } = .next t ∧ t.lineTx = [0x30#8] := ⟨_, rfl, by decide⟩

end Sys2Proof.Tests
end

section
/-! ## What a command can do, and what every step keeps of the block state, the FIFOs and the line

The proofs of the statements about 10_state: one inversion of `exec`, one frame of START, then an invariant lemma per effect. -/

namespace Sys2Proof.Machine

variable {s t : State}

/-! ### What a command can do -/

/-- What a command makes of an unfaulted state, one constructor per kind of effect. -/
inductive CommandEffect (s : State) : State → Prop
  /-- A WRITE holds (R240). -/
  | held : CommandEffect s s
  /-- The command faults before any write (R231). -/
  | raised (c : FaultCode) : CommandEffect s (s.raise c)
  /-- The command answers and does no more. -/
  | responded (v : Word) : CommandEffect s (s.respond v)
  /-- READ takes the byte of the cache (R184). -/
  | uncached (hrx : s.rx.enabled = true) (v : Word) : CommandEffect s (State.respond { s with peek := none } v)
  /-- PEEK and READ take the oldest RX word (R183, R184). -/
  | dequeued (hrx : s.rx.enabled = true) (w : Word) (q : List Word) (hq : s.rxq = w :: q) (peek : Option Byte) (v : Word) :
      CommandEffect s (State.respond { s.setRxq q with peek := peek } v)
  /-- WRITE appends a word to a TX FIFO that is not full (R185). -/
  | enqueued (htx : s.tx.enabled = true) (hroom : s.txq.length ≠ s.txCap) (w v : Word) :
      CommandEffect s ((s.setTxq (s.txq ++ [w])).respond v)
  /-- CONFIG writes a legal construction record (R140). -/
  | recorded (hs : s.started = false) (txPin rxPin : Pin) (rxLane txLane inst : Nat)
      (hl : configLegal s.launch txPin rxPin rxLane txLane inst = true) (v : Word) :
      CommandEffect s (State.respond { s with
        rx := { s.rx with pin := rxPin, lane := rxLane }
        tx := { s.tx with pin := txPin, lane := txLane }
        inst := inst } v)
  /-- START goes on to the channels (R141). -/
  | configured (hs : s.started = false) (hl : s.laneConflict = none) (baud : Word) :
      CommandEffect s (startChannels baud s)

theorem execPeek_effect (h : execPeek s = .next t) : CommandEffect s t := by
  unfold execPeek at h
  split at h
  · next hrx =>
    split at h
    · cases h; exact .responded _
    · cases h; exact .responded _
    · next hq => cases h; exact .dequeued hrx _ _ hq _ _
  · cases h; exact .raised _

theorem execRead_effect (h : execRead s = .next t) : CommandEffect s t := by
  unfold execRead at h
  split at h
  · next hrx =>
    split at h
    · cases h; exact .uncached hrx _
    · cases h; exact .responded _
    · next hq => cases h; exact .dequeued hrx _ _ hq s.peek _
  · cases h; exact .raised _

theorem execWrite_effect {byte : Byte} (h : execWrite byte s = .next t) : CommandEffect s t := by
  unfold execWrite at h
  split at h
  · next htx =>
    split at h
    · cases h; exact .held
    · next hroom => cases h; exact .enqueued htx hroom _ _
  · cases h; exact .raised _

theorem execConfig_effect {a b : Pin} {c d e : Nat} (h : execConfig a b c d e s = .next t) : CommandEffect s t := by
  rcases execConfig_cases a b c d e s with ⟨f, hx⟩ | ⟨hs, hl, hx⟩ <;> cases hx.symm.trans h
  · exact .raised f
  · exact .recorded hs a b c d e hl _

theorem execStart_effect {frame : BitVec 16} {baud : Word} (h : execStart frame baud s = .next t) :
    CommandEffect s t := by
  rcases execStart_cases frame baud s with
    ⟨-, hx⟩ | ⟨-, -, hx⟩ | ⟨-, -, p, -, hx⟩ | ⟨-, -, -, l, -, hx⟩ | ⟨hs, -, -, hl, hx⟩ <;> cases hx.symm.trans h
  case inr.inr.inr.inr => exact .configured hs hl baud
  all_goals exact .raised _

theorem execDivcalc_effect {baud : Word} (h : execDivcalc baud s = .next t) : CommandEffect s t := by
  unfold execDivcalc at h
  split at h <;> cases h
  · exact .raised _
  · exact .responded _

theorem execGetdiv_effect (h : execGetdiv s = .next t) : CommandEffect s t := by
  unfold execGetdiv at h
  split at h <;> cases h
  · exact .raised _
  · exact .responded _

theorem execAvailable_effect (h : execAvailable s = .next t) : CommandEffect s t := by
  unfold execAvailable at h
  split at h <;> cases h
  · exact .responded _
  · exact .raised _

/-- Every command's answer is one of the effects. -/
theorem exec_effect {i : Instr} (h : exec i s = .next t) : CommandEffect s t := by
  cases i with
  | config => exact execConfig_effect h
  | start => exact execStart_effect h
  | available => exact execAvailable_effect h
  | peek => exact execPeek_effect h
  | read => exact execRead_effect h
  | write => exact execWrite_effect h
  | divcalc => exact execDivcalc_effect h
  | getdiv => exact execGetdiv_effect h
  | stop | endCmd | flush | ready | getchan => cases h; exact .responded _

theorem runCommand_effect {w : Cmd} (h : runCommand w s = .next t) : CommandEffect s t := by
  rcases runCommand_cases h with ⟨i, -, hi⟩ | ⟨e, -, rfl⟩
  · exact exec_effect hi
  · exact .raised _

/-! ### What START leaves alone -/

/-- The launch, the construction record, the line history and the cache are the same in both states. -/
structure SameRecord (s t : State) : Prop where
  launch : t.launch = s.launch
  inst   : t.inst = s.inst
  rxPin  : t.rx.pin = s.rx.pin
  rxLane : t.rx.lane = s.rx.lane
  txPin  : t.tx.pin = s.tx.pin
  txLane : t.tx.lane = s.tx.lane
  lineTx : t.lineTx = s.lineTx
  peek   : t.peek = s.peek

theorem RxDone.sameRecord {d : DivResult} {c : ClkDiv} (h : RxDone d c s t) : SameRecord s t := by
  rcases h with ⟨-, rfl⟩ | ⟨p, o, -, -, rfl⟩ <;> constructor <;> rfl

theorem TxDone.sameRecord {d : DivResult} {c : ClkDiv} (h : TxDone d c s t) : SameRecord s t := by
  rcases h with ⟨-, rfl⟩ | ⟨p, o, -, -, rfl⟩ <;> constructor <;> rfl

theorem SameRecord.trans {u : State} (h : SameRecord s t) (h' : SameRecord t u) : SameRecord s u where
  launch := h'.launch.trans h.launch
  inst   := h'.inst.trans h.inst
  rxPin  := h'.rxPin.trans h.rxPin
  rxLane := h'.rxLane.trans h.rxLane
  txPin  := h'.txPin.trans h.txPin
  txLane := h'.txLane.trans h.txLane
  lineTx := h'.lineTx.trans h.lineTx
  peek   := h'.peek.trans h.peek

theorem startChannels_sameRecord (baud : Word) (s : State) : SameRecord s (startChannels baud s) := by
  have h1 : SameRecord s (s.latchDiv (s.divFor baud)) := by constructor <;> rfl
  rcases startChannels_cases baud s with ⟨p, -, -, e⟩ | ⟨s2, h2, ⟨p, -, -, e⟩ | ⟨s3, h3, e⟩⟩ <;> rw [e]
  · exact h1.trans (by constructor <;> rfl)
  · exact (h1.trans h2.sameRecord).trans (by constructor <;> rfl)
  · exact ((h1.trans h2.sameRecord).trans h3.sameRecord).trans (by constructor <;> rfl)

/-! ### The block invariant (R24, R25) -/

/-- The clauses of the block invariant that hold of START's intermediate states too. -/
def State.channelsInv (s : State) : Prop :=
  s.rx.unsetIsIdle ∧ s.tx.unsetIsIdle ∧ s.rx.enabledHasDiv s.div ∧ s.tx.enabledHasDiv s.div
    ∧ (s.rx.enabled = false → s.peek = none)

/-- Once a START has succeeded or a fault stands, the block invariant is about the channels alone. -/
theorem State.channelsInv.blockInv (h : s.channelsInv) (hs : s.fault ≠ none ∨ s.started = true) : s.blockInv := by
  obtain ⟨hru, htu, hrd, htd, hp⟩ := h
  refine ⟨hru, htu, hrd, htd, hp, fun hf hn => ?_⟩
  rcases hs with hs | hs
  · exact absurd hf hs
  · simp [hn] at hs

/-- Latching a divisor while no channel is configured. -/
theorem State.blockInv.latchDiv (h : s.blockInv) (hf : s.fault = none) (hs : s.started = false) (d : DivResult) :
    (s.latchDiv d).channelsInv := by
  obtain ⟨hru, htu, -, -, hp, hn⟩ := h
  obtain ⟨⟨hr, -⟩, ⟨ht, -⟩, -⟩ := hn hf hs
  exact ⟨hru, htu, fun h => by simp [hr] at h, fun h => by simp [ht] at h, hp⟩

theorem RxDone.channelsInv {d : DivResult} {c : ClkDiv} (h : RxDone d c s t) (hd : s.div = some d)
    (hs : s.channelsInv) : t.channelsInv := by
  rcases h with ⟨-, rfl⟩ | ⟨p, o, hp, -, rfl⟩
  · exact hs
  · obtain ⟨-, htu, -, htd, -⟩ := hs
    exact ⟨fun h => by simp [hp] at h, htu, fun _ => ⟨hd.symm, by simp [hd]⟩, htd, fun h => by simp at h⟩

theorem TxDone.channelsInv {d : DivResult} {c : ClkDiv} (h : TxDone d c s t) (hd : s.div = some d)
    (hs : s.channelsInv) : t.channelsInv := by
  rcases h with ⟨-, rfl⟩ | ⟨p, o, hp, -, rfl⟩
  · exact hs
  · obtain ⟨hru, -, hrd, -, hpk⟩ := hs
    exact ⟨hru, fun h => by simp [hp] at h, hrd, fun _ => ⟨hd.symm, by simp [hd]⟩, hpk⟩

theorem RxDone.div_eq {d : DivResult} {c : ClkDiv} (h : RxDone d c s t) : t.div = s.div := by
  rcases h with ⟨-, rfl⟩ | ⟨p, o, -, -, rfl⟩ <;> rfl

theorem State.blockInv.startChannels (h : s.blockInv) (hf : s.fault = none) (hs : s.started = false) (baud : Word) :
    (startChannels baud s).blockInv := by
  have h1 := h.latchDiv hf hs (s.divFor baud)
  rcases startChannels_cases baud s with ⟨p, -, -, e⟩ | ⟨s2, h2, ⟨p, -, -, e⟩ | ⟨s3, h3, e⟩⟩ <;> rw [e]
  · exact State.channelsInv.blockInv h1 (.inl nofun)
  · exact State.channelsInv.blockInv (h2.channelsInv rfl h1) (.inl nofun)
  · exact State.channelsInv.blockInv (h3.channelsInv h2.div_eq (h2.channelsInv rfl h1)) (.inr rfl)

theorem State.blockInv.raise (h : s.blockInv) (c : FaultCode) : (s.raise c).blockInv := by
  obtain ⟨hru, htu, hrd, htd, hp, -⟩ := h
  exact ⟨hru, htu, hrd, htd, hp, nofun⟩

/-- The cache may be filled or emptied while RX is enabled. -/
theorem State.blockInv.setPeek (h : s.blockInv) (hrx : s.rx.enabled = true) (peek : Option Byte) :
    State.blockInv { s with peek := peek } := by
  obtain ⟨hru, htu, hrd, htd, -, hn⟩ := h
  exact ⟨hru, htu, hrd, htd, fun h => by simp [hrx] at h, hn⟩

theorem CommandEffect.blockInv (h : CommandEffect s t) (hf : s.fault = none) (hs : s.blockInv) : t.blockInv := by
  cases h with
  | held => exact hs
  | raised c => exact hs.raise c
  | responded v => exact hs
  | uncached hrx v => exact hs.setPeek hrx none
  | dequeued hrx w q hq peek v => exact hs.setPeek hrx peek
  | enqueued htx hroom w v => exact hs
  | recorded hn a b c d e hl v =>
    obtain ⟨-, -, hrd, htd, hp, hnc⟩ := hs
    obtain ⟨hr, ht, -⟩ := hnc hf hn
    exact ⟨fun _ => hr, fun _ => ht, hrd, htd, hp, hnc⟩
  | configured hn hl baud => exact hs.startChannels hf hn baud

theorem step_keeps_blockInv (h : step s = .next t) (hs : s.blockInv) : t.blockInv := by
  refine step_keeps (P := State.blockInv) (fun _ _ _ _ _ h => h) (fun _ c _ h => h.raise c)
    (fun _ _ _ hf h hx => (exec_effect hx).blockInv hf h) (fun line low s h => ?_) (fun s h => ?_) h hs
  · obtain ⟨rxf, n, e⟩ := rxPush_frame line low s
    rw [e]; exact h
  · rcases txPop_cases s with ⟨-, e⟩ | ⟨w, q, -, -, e⟩ <;> rw [e] <;> exact h

/-! ### The construction record (R28) -/

theorem SameRecord.recordInv (h : SameRecord s t) (hs : s.recordInv) : t.recordInv := by
  simpa only [State.recordInv, h.launch, h.inst, h.rxPin, h.rxLane, h.txPin, h.txLane] using hs

theorem CommandEffect.recordInv (h : CommandEffect s t) (hs : s.recordInv) : t.recordInv := by
  cases h with
  | recorded hn a b c d e hl v => exact hl
  | configured hn hl baud => exact (startChannels_sameRecord baud s).recordInv hs
  | held | raised | responded | uncached | dequeued | enqueued => exact hs

theorem step_keeps_recordInv (h : step s = .next t) (hs : s.recordInv) : t.recordInv := by
  refine step_keeps (P := State.recordInv) (fun _ _ _ _ _ h => h) (fun _ _ _ h => h)
    (fun _ _ _ _ h hx => (exec_effect hx).recordInv h) (fun line low s h => ?_) (fun s h => ?_) h hs
  · obtain ⟨rxf, n, e⟩ := rxPush_frame line low s
    rw [e]; exact h
  · rcases txPop_cases s with ⟨-, e⟩ | ⟨w, q, -, -, e⟩ <;> rw [e] <;> exact h

/-- Settles O54: each effect of a command, and each lane step, keeps the block invariant and the legal record. -/
theorem stepKeepsBlockInvariant : Obligations.StepKeepsBlockInvariant :=
  fun _ _ h => ⟨step_keeps_blockInv h, step_keeps_recordInv h⟩

/-! ### The FIFOs of the enabled lanes (R33, R148, R157) -/

theorem queueOwned_iff (q : Table (List Word)) (k cap : Nat) :
    queueOwned q k cap = true ↔ ∃ ws, Table.get q k = some ws ∧ ws.length ≤ cap := by
  unfold queueOwned
  cases Table.get q k <;> simp

theorem queueOwned_set_self (q : Table (List Word)) (k : Nat) {ws : List Word} {cap : Nat} (h : ws.length ≤ cap) :
    queueOwned (Table.set q k ws) k cap = true :=
  (queueOwned_iff ..).2 ⟨ws, Table.get_set_self .., h⟩

theorem queueOwned_set_ne (q : Table (List Word)) {k k' : Nat} (ws : List Word) (cap : Nat) (h : k ≠ k') :
    queueOwned (Table.set q k ws) k' cap = queueOwned q k' cap := by
  unfold queueOwned
  rw [Table.get_set_ne q ws h]

/-- The RX FIFO is owned, joined and within its capacity. -/
def State.rxFifoJoined (s : State) : Prop :=
  queueOwned s.fabric.rxf s.rxKey s.rxCap = true ∧ s.fabric.joinOf s.inst s.rx.lane = some .rx

/-- The TX FIFO is owned, joined and within its capacity. -/
def State.txFifoJoined (s : State) : Prop :=
  queueOwned s.fabric.txf s.txKey (capTx s.launch.fifoDepth .tx) = true ∧ s.fabric.joinOf s.inst s.tx.lane = some .tx

theorem State.rxFifoJoined.length_le (h : s.rxFifoJoined) : s.rxq.length ≤ s.rxCap := by
  obtain ⟨q, hq, hle⟩ := (queueOwned_iff ..).1 h.1
  simpa [State.rxq, hq] using hle

/-- The capacity WRITE obeys is the joined one. -/
theorem State.txFifoJoined.txCap_eq (h : s.txFifoJoined) : s.txCap = capTx s.launch.fifoDepth .tx := by
  have hj : (s.fabric.laneCfg s.inst s.tx.lane).fjoin = some .tx := h.2
  simp [State.txCap, State.txJoin, hj]

theorem State.txFifoJoined.length_le (h : s.txFifoJoined) : s.txq.length ≤ s.txCap := by
  obtain ⟨q, hq, hle⟩ := (queueOwned_iff ..).1 h.1
  rw [h.txCap_eq]
  simpa [State.txq, hq] using hle

theorem State.rxFifoJoined.setRxq (h : s.rxFifoJoined) {q : List Word} (hq : q.length ≤ s.rxCap) :
    (s.setRxq q).rxFifoJoined :=
  ⟨queueOwned_set_self _ _ hq, h.2⟩

theorem State.txFifoJoined.setTxq (h : s.txFifoJoined) {q : List Word} (hq : q.length ≤ s.txCap) :
    (s.setTxq q).txFifoJoined :=
  ⟨queueOwned_set_self _ _ (h.txCap_eq ▸ hq), h.2⟩

theorem State.fifoInv.rxq_length_le (h : s.fifoInv) (hrx : s.rx.enabled = true) : s.rxq.length ≤ s.rxCap := by
  obtain ⟨hr, -⟩ := h
  exact State.rxFifoJoined.length_le (hr hrx)

theorem State.fifoInv.txq_length_le (h : s.fifoInv) (htx : s.tx.enabled = true) : s.txq.length ≤ s.txCap := by
  obtain ⟨-, ht, -⟩ := h
  exact State.txFifoJoined.length_le (ht htx)

/-- A write of `RQ` within its capacity keeps the invariant. -/
theorem State.fifoInv.setRxq (h : s.fifoInv) {q : List Word} (hq : s.rx.enabled = true → q.length ≤ s.rxCap) :
    (s.setRxq q).fifoInv := by
  obtain ⟨hr, h⟩ := h
  exact ⟨fun he => State.rxFifoJoined.setRxq (hr he) (hq he), h⟩

/-- A write of `TQ` within its capacity keeps the invariant. -/
theorem State.fifoInv.setTxq (h : s.fifoInv) {q : List Word} (hq : s.tx.enabled = true → q.length ≤ s.txCap) :
    (s.setTxq q).fifoInv := by
  obtain ⟨hr, ht, h⟩ := h
  exact ⟨hr, fun he => State.txFifoJoined.setTxq (ht he) (hq he), h⟩

/-- Without a lane conflict, two channels with pins are on different lanes (R141, R157). -/
theorem State.lane_ne_of_laneConflict_eq_none {p q : Nat} (h : s.laneConflict = none) (hr : s.rx.pin = .gpio p)
    (ht : s.tx.pin = .gpio q) : s.rx.lane ≠ s.tx.lane := by
  intro hl
  simp [State.laneConflict, hr, ht, hl] at h

/-- ConfigureRX enables a lane only for a pin that is set (R153), and leaves its FIFO empty and joined (R148). -/
theorem RxDone.joined_and_pinned {d : DivResult} {c : ClkDiv} (h : RxDone d c s t) (hs : s.rx.enabled = false)
    (ht : t.rx.enabled = true) : t.rxFifoJoined ∧ ∃ p, s.rx.pin = .gpio p := by
  rcases h with ⟨-, rfl⟩ | ⟨p, o, hp, -, rfl⟩
  · simp [hs] at ht
  · refine ⟨⟨?_, ?_⟩, p, hp⟩
    · simp only [rxFabric_rxf]
      exact queueOwned_set_self _ _ (Nat.zero_le _)
    · simp [Fabric.joinOf, rxFabric_laneCfg]

/-- ConfigureTX enables a lane only for a pin that is set (R153), and leaves its FIFO empty and joined (R148). -/
theorem TxDone.joined_and_pinned {d : DivResult} {c : ClkDiv} (h : TxDone d c s t) (hs : s.tx.enabled = false)
    (ht : t.tx.enabled = true) : t.txFifoJoined ∧ ∃ p, s.tx.pin = .gpio p := by
  rcases h with ⟨-, rfl⟩ | ⟨p, o, hp, -, rfl⟩
  · simp [hs] at ht
  · refine ⟨⟨?_, ?_⟩, p, hp⟩
    · simp only [txFabric_txf]
      exact queueOwned_set_self _ _ (Nat.zero_le _)
    · simp [Fabric.joinOf, txFabric_laneCfg]

/-- ConfigureTX leaves the RX FIFO of another lane as it is. -/
theorem TxDone.keeps_rxFifoJoined {d : DivResult} {c : ClkDiv} (h : TxDone d c s t)
    (hl : ∀ p, s.tx.pin = .gpio p → s.rx.lane ≠ s.tx.lane) (hs : s.rxFifoJoined) : t.rxFifoJoined := by
  rcases h with ⟨-, rfl⟩ | ⟨p, o, hp, -, rfl⟩
  · exact hs
  · obtain ⟨hq, hj⟩ := hs
    have hne : s.tx.lane ≠ s.rx.lane := (hl p hp).symm
    refine ⟨?_, ?_⟩
    · simp only [txFabric_rxf]
      rw [queueOwned_set_ne]
      · exact hq
      · simpa [State.rxKey] using hne
    · simpa [Fabric.joinOf, txFabric_laneCfg, hne] using hj

theorem RxDone.tx_eq {d : DivResult} {c : ClkDiv} (h : RxDone d c s t) : t.tx = s.tx := by
  rcases h with ⟨-, rfl⟩ | ⟨p, o, -, -, rfl⟩ <;> rfl

theorem TxDone.rx_eq {d : DivResult} {c : ClkDiv} (h : TxDone d c s t) : t.rx = s.rx := by
  rcases h with ⟨-, rfl⟩ | ⟨p, o, -, -, rfl⟩ <;> rfl

/-- The clauses of the FIFO invariant that hold of START's intermediate states too. -/
def State.lanesInv (s : State) : Prop :=
  (s.rx.enabled = true → s.rxFifoJoined) ∧ (s.tx.enabled = true → s.txFifoJoined)
    ∧ (s.rx.enabled = true → s.tx.enabled = true → s.rx.lane ≠ s.tx.lane) ∧ 1 ≤ s.launch.fifoDepth

/-- Once a START has succeeded or a fault stands, the FIFO invariant is about the lanes alone. -/
theorem State.lanesInv.fifoInv (h : s.lanesInv) (hs : s.fault ≠ none ∨ s.started = true) : s.fifoInv := by
  obtain ⟨hr, ht, hne, hd⟩ := h
  refine ⟨hr, ht, hne, fun hf hn => ?_, hd⟩
  rcases hs with hs | hs
  · exact absurd hf hs
  · simp [hn] at hs

theorem State.lanesInv_of_disabled (hr : s.rx.enabled = false) (ht : s.tx.enabled = false)
    (hd : 1 ≤ s.launch.fifoDepth) : s.lanesInv :=
  ⟨fun h => by simp [hr] at h, fun h => by simp [ht] at h, fun h => by simp [hr] at h, hd⟩

theorem RxDone.lanesInv {d : DivResult} {c : ClkDiv} (h : RxDone d c s t) (hr : s.rx.enabled = false)
    (ht : s.tx.enabled = false) (hd : 1 ≤ s.launch.fifoDepth) : t.lanesInv := by
  have ht' : t.tx.enabled = false := h.tx_eq ▸ ht
  exact ⟨fun he => (h.joined_and_pinned hr he).1, fun he => by simp [ht'] at he, fun _ he => by simp [ht'] at he,
    h.sameRecord.launch ▸ hd⟩

theorem TxDone.lanesInv {d : DivResult} {c : ClkDiv} (h : TxDone d c s t) (hs : s.lanesInv)
    (ht : s.tx.enabled = false)
    (hl : s.rx.enabled = true → ∀ p, s.tx.pin = .gpio p → s.rx.lane ≠ s.tx.lane) : t.lanesInv := by
  obtain ⟨hr, -, -, hd⟩ := hs
  refine ⟨fun he => ?_, fun he => (h.joined_and_pinned ht he).1, fun he he' => ?_, h.sameRecord.launch ▸ hd⟩
  · rw [h.rx_eq] at he
    exact h.keeps_rxFifoJoined (hl he) (hr he)
  · obtain ⟨-, p, hp⟩ := h.joined_and_pinned ht he'
    rw [h.sameRecord.rxLane, h.sameRecord.txLane]
    exact hl (h.rx_eq ▸ he) p hp

theorem State.fifoInv.startChannels (h : s.fifoInv) (hf : s.fault = none) (hs : s.started = false)
    (hl : s.laneConflict = none) (baud : Word) : (startChannels baud s).fifoInv := by
  obtain ⟨-, -, -, hn, hd⟩ := h
  obtain ⟨hr, ht⟩ := hn hf hs
  rcases startChannels_cases baud s with ⟨p, -, -, e⟩ | ⟨s2, h2, ⟨p, -, -, e⟩ | ⟨s3, h3, e⟩⟩ <;> rw [e]
  · exact State.lanesInv.fifoInv (State.lanesInv_of_disabled hr ht hd) (.inl nofun)
  · exact State.lanesInv.fifoInv (h2.lanesInv hr ht hd) (.inl nofun)
  · have hne : s2.rx.enabled = true → ∀ p, s2.tx.pin = .gpio p → s2.rx.lane ≠ s2.tx.lane := by
      intro he q hq
      obtain ⟨-, p, hp⟩ := h2.joined_and_pinned hr he
      rw [h2.sameRecord.rxLane, h2.sameRecord.txLane]
      exact State.lane_ne_of_laneConflict_eq_none hl hp (h2.tx_eq ▸ hq)
    exact State.lanesInv.fifoInv (h3.lanesInv (h2.lanesInv hr ht hd) (h2.tx_eq ▸ ht) hne) (.inr rfl)

theorem State.fifoInv.raise (h : s.fifoInv) (c : FaultCode) : (s.raise c).fifoInv := by
  obtain ⟨hr, ht, hne, -, hd⟩ := h
  exact ⟨hr, ht, hne, nofun, hd⟩

theorem CommandEffect.fifoInv (h : CommandEffect s t) (hf : s.fault = none) (hs : s.fifoInv) : t.fifoInv := by
  cases h with
  | held | responded | uncached => exact hs
  | raised c => exact hs.raise c
  | dequeued hrx w q hq peek v =>
    have hle : q.length ≤ s.rxCap := by
      have := hs.rxq_length_le hrx
      rw [hq, List.length_cons] at this
      omega
    exact hs.setRxq fun _ => hle
  | enqueued htx hroom w v =>
    have hle := hs.txq_length_le htx
    refine hs.setTxq fun _ => ?_
    rw [List.length_append, List.length_singleton]
    omega
  | recorded hn a b c d e hl v =>
    obtain ⟨-, -, -, hoff, hd⟩ := hs
    obtain ⟨hr, ht⟩ := hoff hf hn
    exact ⟨fun he => by simp [hr] at he, fun he => by simp [ht] at he, fun he => by simp [hr] at he, hoff, hd⟩
  | configured hn hl baud => exact hs.startChannels hf hn hl baud

/-- An overrun leaves at most a full FIFO (R212). -/
theorem overrun_fifoInv (w : Word) (hs : s.fifoInv) (hrx : s.rx.enabled = true) : (overrun w s).fifoInv := by
  have hdrawn : s.drawn.fifoInv := hs
  have hle := hs.rxq_length_le hrx
  have hcap : s.rxCap = 2 * s.launch.fifoDepth := rfl
  obtain ⟨-, -, -, -, hd⟩ := hs
  unfold overrun
  split
  · exact hdrawn
  · refine hdrawn.setRxq fun _ => ?_
    change (s.rxq.tail ++ [w]).length ≤ s.rxCap
    rw [List.length_append, List.length_tail, List.length_singleton]
    omega
  · refine hdrawn.setRxq fun _ => ?_
    rw [List.length_map, List.length_range]
    exact le_rfl

theorem pushWord_fifoInv (w : Word) (hs : s.fifoInv) (hrx : s.rx.enabled = true) : (pushWord w s).fifoInv := by
  unfold pushWord
  split
  · next hroom =>
    refine hs.setRxq fun _ => ?_
    rw [List.length_append, List.length_singleton]
    omega
  · exact overrun_fifoInv w hs hrx

theorem rxPush_fifoInv (line : BitVec 10) (low : BitVec 24) (hs : s.fifoInv) : (rxPush line low s).fifoInv := by
  unfold rxPush rxDrawn
  split
  · next hrx =>
    split
    · exact pushWord_fifoInv _ hs hrx
    · exact pushWord_fifoInv (s := s.drawn) _ hs hrx
  · exact hs

theorem txPop_fifoInv (hs : s.fifoInv) : (txPop s).fifoInv := by
  rcases txPop_cases s with ⟨-, e⟩ | ⟨w, q, htx, hq, e⟩ <;> rw [e]
  · exact hs
  · have hle : q.length ≤ s.txCap := by
      have := hs.txq_length_le htx
      rw [hq, List.length_cons] at this
      omega
    exact hs.setTxq fun _ => hle

/-- Settles O55: each effect of a command, and each lane step, leaves an enabled lane's FIFO at most full, and only START on
two lanes that differ enables lanes. -/
theorem stepKeepsFifosWithinCapacity : Obligations.StepKeepsFifosWithinCapacity := fun _ _ hs h =>
  step_keeps (P := State.fifoInv) (fun _ _ _ _ _ h => h) (fun _ c _ h => h.raise c)
    (fun _ _ _ hf h hx => (exec_effect hx).fifoInv hf h) (fun line low _ h => rxPush_fifoInv line low h)
    (fun _ h => txPop_fifoInv h) h hs

/-! ### The line history and the launch (R42, R214, R276) -/

theorem CommandEffect.launch_lineTx (h : CommandEffect s t) : t.launch = s.launch ∧ t.lineTx = s.lineTx := by
  cases h with
  | configured hn hl baud =>
    have hr := startChannels_sameRecord baud s
    exact ⟨hr.launch, hr.lineTx⟩
  | held | raised | responded | uncached | dequeued | enqueued | recorded => exact ⟨rfl, rfl⟩

/-- The host's turn appends nothing to the line history. -/
theorem hostTurn_launch_lineTx (h : hostTurn s = .next t) : t.launch = s.launch ∧ t.lineTx = s.lineTx := by
  rcases hostTurn_cases h with rfl | ⟨w, -, hr⟩ | ⟨w, ws, -, -, hr⟩
  · exact ⟨rfl, rfl⟩
  · exact (runCommand_effect hr).launch_lineTx
  · exact (runCommand_effect hr).launch_lineTx

/-- Settles O60: of the three agents, only the TX lane writes the line history, and it sends the word it pops. -/
theorem lineAndLaunchUnderAStep : Obligations.LineAndLaunchUnderAStep := by
  intro s t h
  obtain ⟨-, ⟨line, low, ts, -, rfl⟩ | ⟨ts, rfl⟩ | ⟨ts, h⟩⟩ := step_cases h
  · obtain ⟨rxf, n, e⟩ := rxPush_frame line low { s with turns := ts }
    rw [e]
    exact ⟨rfl, .inl rfl⟩
  · rcases txPop_cases { s with turns := ts } with ⟨-, e⟩ | ⟨w, q, htx, hq, e⟩ <;> rw [e]
    · exact ⟨rfl, .inl rfl⟩
    · exact ⟨rfl, .inr ⟨w, q, htx, hq, State.txq_setTxq _ q, rfl⟩⟩
  · obtain ⟨hl, hline⟩ := hostTurn_launch_lineTx h
    exact ⟨hl, .inl hline⟩

end Sys2Proof.Machine
end

section
/-! ## Program memory, the fabric's canonical form, and the order of the fabric writes

The proofs of the statements about 20_memory: what an RX push does to its FIFO, one rule for what every step keeps of the
fabric, where START loads the two programs, and the place of the enable among a channel's writes. -/

namespace Sys2Proof.Machine

variable {s t : State}

/-! ### The RX FIFO under a lane step (R77, R210, R212) -/

/-- The queue `q` may follow the RX FIFO of `s` under a push: from a FIFO within a capacity of at least 1, it holds no fewer words
and is within the capacity. -/
def State.rxGrowsTo (s : State) (q : List Word) : Prop :=
  0 < s.rxCap → s.rxq.length ≤ s.rxCap → s.rxq.length ≤ q.length ∧ q.length ≤ s.rxCap

/-- What a push to the RX FIFO does: only draws are taken, or the FIFO is written with a queue it may grow to. -/
theorem pushWord_cases (w : Word) (s : State) :
    (∃ n, pushWord w s = { s with draws := n })
    ∨ ∃ q n, s.rxGrowsTo q ∧ pushWord w s = { s.setRxq q with draws := n } := by
  unfold pushWord
  split
  · next hroom =>
    refine .inr ⟨s.rxq ++ [w], s.draws, fun _ _ => ?_, rfl⟩
    rw [List.length_append, List.length_singleton]
    omega
  · next hfull =>
    unfold overrun
    split
    · exact .inl ⟨_, rfl⟩
    · refine .inr ⟨s.rxq.tail ++ [w], _, fun _ _ => ?_, rfl⟩
      rw [List.length_append, List.length_tail, List.length_singleton]
      omega
    · refine .inr ⟨(List.range s.rxCap).map (Config.freeWord s.draws), _, fun _ hle => ?_, rfl⟩
      rw [List.length_map, List.length_range]
      exact ⟨hle, le_rfl⟩

/-- What the RX lane's step does: only draws are taken, or the RX FIFO is written with a queue it may grow to. -/
theorem rxPush_cases (line : BitVec 10) (low : BitVec 24) (s : State) :
    (∃ n, rxPush line low s = { s with draws := n })
    ∨ ∃ q n, s.rxGrowsTo q ∧ rxPush line low s = { s.setRxq q with draws := n } := by
  unfold rxPush rxDrawn
  split
  · split
    · exact pushWord_cases _ s
    · exact pushWord_cases _ s.drawn
  · exact .inl ⟨s.draws, rfl⟩

theorem txPop_rxq (s : State) : (txPop s).rxq = s.rxq := by
  rcases txPop_cases s with ⟨-, e⟩ | ⟨w, q, -, -, e⟩ <;> rw [e]
  exact State.rxq_setTxq s q

/-- Settles O46: a push that writes the RX FIFO leaves a queue it may grow to, and a pop does not write it. -/
theorem laneStepsNeverShrinkRx : Obligations.LaneStepsNeverShrinkRx := by
  intro s line low hd hle
  have hpush : s.rxq.length ≤ (rxPush line low s).rxq.length
      ∧ (rxPush line low s).rxq.length ≤ 2 * s.launch.fifoDepth := by
    rcases rxPush_cases line low s with ⟨n, e⟩ | ⟨q, n, hq, e⟩ <;> rw [e]
    · exact ⟨le_rfl, hle⟩
    · have hcap : 0 < s.rxCap := by simp only [State.rxCap, capRx]; omega
      change s.rxq.length ≤ (s.setRxq q).rxq.length ∧ (s.setRxq q).rxq.length ≤ s.rxCap
      rw [State.rxq_setRxq]
      exact hq hcap hle
  exact ⟨hpush.1, hpush.2, txPop_rxq s⟩

/-! ### What every step keeps of the fabric -/

/-- The property of the fabric is kept by each kind of change the block makes to it: a FIFO written, writes that leave program
memory alone, and a program loaded where it fits. -/
structure KeptByWrites (Q : Fabric → Prop) : Prop where
  rxf    : ∀ (f : Fabric) k q, Q f → Q { f with rxf := Table.set f.rxf k q }
  txf    : ∀ (f : Fabric) k q, Q f → Q { f with txf := Table.set f.txf k q }
  writes : ∀ (f : Fabric) ws, (f.applyAll ws).pm = f.pm → Q f → Q (f.applyAll ws)
  load   : ∀ (f : Fabric) size i prog o n, o ∈ fits f.pm size i n → Q f → Q (f.applyAll (slotWrites i prog o n))

namespace KeptByWrites

variable {Q : Fabric → Prop} {d : DivResult} {c : ClkDiv}

theorem rxDone (hQ : KeptByWrites Q) (h : RxDone d c s t) (hs : Q s.fabric) : Q t.fabric := by
  rcases h with ⟨-, rfl⟩ | ⟨p, o, -, ho, rfl⟩
  · exact hs
  · have hpin := hQ.writes s.fabric (rxPinWrites s.inst p) rfl hs
    exact hQ.writes _ (rxLaneWrites s.inst p s.rx.lane o c) rfl (hQ.load _ _ _ .rx _ _ ho hpin)

theorem txDone (hQ : KeptByWrites Q) (h : TxDone d c s t) (hs : Q s.fabric) : Q t.fabric := by
  rcases h with ⟨-, rfl⟩ | ⟨p, o, -, ho, rfl⟩
  · exact hs
  · have hpin := hQ.writes s.fabric (txPinWrites s.inst p) rfl hs
    exact hQ.writes _ (txLaneWrites s.inst p s.tx.lane o c) rfl (hQ.load _ _ _ .tx _ _ ho hpin)

theorem startChannels (hQ : KeptByWrites Q) (baud : Word) (hs : Q s.fabric) : Q (startChannels baud s).fabric := by
  rcases startChannels_cases baud s with ⟨p, -, -, e⟩ | ⟨s2, h2, ⟨p, -, -, e⟩ | ⟨s3, h3, e⟩⟩ <;> rw [e]
  · exact hQ.writes s.fabric (rxPinWrites s.inst p) rfl hs
  · exact hQ.writes s2.fabric (txPinWrites s2.inst p) rfl (hQ.rxDone h2 hs)
  · change Q s3.fabric
    exact hQ.txDone h3 (hQ.rxDone h2 hs)

theorem commandEffect (hQ : KeptByWrites Q) (h : CommandEffect s t) (hs : Q s.fabric) : Q t.fabric := by
  cases h with
  | held | raised | responded | uncached | recorded => exact hs
  | dequeued hrx w q hq peek v => exact hQ.rxf s.fabric s.rxKey q hs
  | enqueued htx hroom w v => exact hQ.txf s.fabric s.txKey _ hs
  | configured hn hl baud => exact hQ.startChannels baud hs

theorem rxPush (hQ : KeptByWrites Q) (line : BitVec 10) (low : BitVec 24) (hs : Q s.fabric) :
    Q (rxPush line low s).fabric := by
  rcases rxPush_cases line low s with ⟨n, e⟩ | ⟨q, n, -, e⟩ <;> rw [e]
  · exact hs
  · exact hQ.rxf s.fabric s.rxKey q hs

theorem txPop (hQ : KeptByWrites Q) (hs : Q s.fabric) : Q (txPop s).fabric := by
  rcases txPop_cases s with ⟨-, e⟩ | ⟨w, q, -, -, e⟩ <;> rw [e]
  · exact hs
  · exact hQ.txf s.fabric s.txKey q hs

/-- What each kind of change to the fabric keeps, every step keeps. -/
theorem step (hQ : KeptByWrites Q) (h : step s = .next t) (hs : Q s.fabric) : Q t.fabric :=
  step_keeps (P := fun s => Q s.fabric) (fun _ _ _ _ _ h => h) (fun _ _ _ h => h)
    (fun _ _ _ _ h hx => hQ.commandEffect (exec_effect hx) h) (fun line low _ h => hQ.rxPush line low h)
    (fun _ h => hQ.txPop h) h hs

end KeptByWrites

/-! ### The canonical form (R60) -/

theorem keptByWrites_wf : KeptByWrites (fun f => f.wf = true) where
  rxf f k q h := by simp_all [Fabric.wf, Table.wf_set]
  txf f k q h := by simp_all [Fabric.wf, Table.wf_set]
  writes f ws _ h := Fabric.applyAll_wf ws f h
  load f _ _ _ _ _ _ h := Fabric.applyAll_wf _ f h

/-- Settles O57: a write to a table keeps its keys rising, and every change of the fabric is such a write. -/
theorem stepKeepsFabricCanonical : Obligations.StepKeepsFabricCanonical :=
  fun _ _ hs h => keptByWrites_wf.step h hs

/-! ### Used slots of program memory (R62) -/

theorem key_surjective (k : Nat) : ∃ i j, key i j = k :=
  ⟨(Nat.unpair k).1, (Nat.unpair k).2, Nat.pair_unpair k⟩

/-- A program loaded where it fits overwrites no used slot. -/
theorem get_pm_slotWrites_of_used {f : Fabric} {size i o n k : Nat} {v : Slot} (prog : Program)
    (ho : o ∈ fits f.pm size i n) (h : Table.get f.pm k = some v) :
    Table.get (f.applyAll (slotWrites i prog o n)).pm k = some v := by
  obtain ⟨i', j, rfl⟩ := key_surjective k
  rw [Fabric.applyAll_slotWrites_pm, if_neg, h]
  rintro ⟨rfl, hlo, hhi⟩
  have hfree := ((mem_fits ..).1 ho).2 (j - o) (by omega)
  rw [Nat.add_sub_cancel' hlo, h] at hfree
  cases hfree

theorem keptByWrites_used (k : Nat) (v : Slot) : KeptByWrites (fun f => Table.get f.pm k = some v) where
  rxf _ _ _ h := h
  txf _ _ _ h := h
  writes _ _ e h := e ▸ h
  load _ _ _ prog _ _ ho h := get_pm_slotWrites_of_used prog ho h

/-- Settles O59: of the changes of the fabric only a program load writes program memory, and it writes free slots. -/
theorem usedSlotsAreNeverWritten : Obligations.UsedSlotsAreNeverWritten :=
  fun _ _ k v h hs => (keptByWrites_used k v).step h hs

/-! ### Where START loads the programs (R61, R141) -/

/-- Where more slots are used, no more offsets fit. -/
theorem fits_subset {pm pm' : Table Slot} (h : ∀ k v, Table.get pm k = some v → Table.get pm' k = some v)
    (size i n : Nat) : fits pm' size i n ⊆ fits pm size i n := by
  intro o ho
  obtain ⟨hle, hfree⟩ := (mem_fits ..).1 ho
  refine (mem_fits ..).2 ⟨hle, fun k hk => Option.eq_none_iff_forall_ne_some.2 fun v hv => ?_⟩
  cases (hfree k hk).symm.trans (h _ v hv)

/-- A program that fits once another one is loaded fits beside it. -/
theorem apart_of_mem_fits {f : Fabric} {prog : Program} {size i o n o' n' : Nat} (hn : 1 ≤ n) (hn' : 1 ≤ n')
    (h : o' ∈ fits (f.applyAll (slotWrites i prog o n)).pm size i n') : o + n ≤ o' ∨ o' + n' ≤ o := by
  by_contra hlap
  obtain ⟨-, hfree⟩ := (mem_fits ..).1 h
  have hmeet := hfree (max o o' - o') (by omega)
  rw [Fabric.applyAll_slotWrites_pm, if_pos (by omega)] at hmeet
  cases hmeet

theorem RxDone.started_eq {d : DivResult} {c : ClkDiv} (h : RxDone d c s t) : t.started = s.started := by
  rcases h with ⟨-, rfl⟩ | ⟨p, o, -, -, rfl⟩ <;> rfl

/-- START with its four checks passed goes on to the channels. -/
theorem exec_start_of_checks (frame : BitVec 16) {baud : Word} (hs : s.started = false) (hb : baud ≠ 0#32)
    (hp : s.pinConflict = none) (hl : s.laneConflict = none) :
    exec (.start frame baud) s = .next (startChannels baud s) := by
  simp [exec, execStart, hs, hb, hp, hl]

/-- A START that marks the block started has passed its checks. -/
theorem eq_startChannels_of_started {frame : BitVec 16} {baud : Word} (h : exec (.start frame baud) s = .next t)
    (hs : s.started = false) (ht : t.started = true) : t = startChannels baud s := by
  rcases execStart_cases frame baud s with
    ⟨-, hx⟩ | ⟨-, -, hx⟩ | ⟨-, -, p, -, hx⟩ | ⟨-, -, -, l, -, hx⟩ | ⟨-, -, -, -, hx⟩ <;> cases hx.symm.trans h
  case inr.inr.inr.inr => rfl
  all_goals simp [hs] at ht

/-- A START of both channels that succeeds loads the RX program where it fits, and then the TX program where it fits. -/
theorem startChannels_loads_both {baud : Word} {r q : Nat} (hr : s.rx.pin = .gpio r) (hq : s.tx.pin = .gpio q)
    (hs : s.started = false) (h : (startChannels baud s).started = true) :
    ∃ (o o' : Nat) (f : Fabric), f.pm = (s.fabric.applyAll (slotWrites s.inst .rx o s.launch.rxProgLen)).pm
      ∧ o ∈ fits s.fabric.pm s.launch.progMemSize s.inst s.launch.rxProgLen
      ∧ o' ∈ fits f.pm s.launch.progMemSize s.inst s.launch.txProgLen
      ∧ (startChannels baud s).rx.offset = some o ∧ (startChannels baud s).tx.offset = some o'
      ∧ (startChannels baud s).fabric.pm = (f.applyAll (slotWrites s.inst .tx o' s.launch.txProgLen)).pm := by
  rcases startChannels_cases baud s with ⟨p, -, -, e⟩ | ⟨s2, h2, ⟨p, -, -, e⟩ | ⟨s3, h3, e⟩⟩ <;> rw [e] at h ⊢
  · cases hs.symm.trans h
  · cases hs.symm.trans (h2.started_eq.symm.trans h)
  · obtain ⟨hu, -⟩ | ⟨p, o, -, ho, rfl⟩ := h2
    · cases hr.symm.trans hu
    obtain ⟨hu, -⟩ | ⟨p', o', -, ho', rfl⟩ := h3
    · cases hq.symm.trans hu
    exact ⟨o, o', _, rxFabric_pm_eq .., ho, ho', rfl, rfl, txFabric_pm_eq ..⟩

/-- A loaded program stands from its offset on. -/
theorem get_pm_slotWrites_self (f : Fabric) (i : Nat) (prog : Program) (o : Nat) {n k : Nat} (hk : k < n) :
    Table.get (f.applyAll (slotWrites i prog o n)).pm (key i (o + k)) = some (.code prog o k) := by
  rw [Fabric.applyAll_slotWrites_pm, if_pos (by omega), Nat.add_sub_cancel_left]

/-- Settles O27: the TX program is loaded on slots that are free once the RX program stands, so beside it. -/
theorem programsAreLoadedApart : Obligations.ProgramsAreLoadedApart := by
  intro frame baud s u r q hsound hs hr hq hx hu
  cases eq_startChannels_of_started hx hs hu
  obtain ⟨o, o', f, hf, ho, ho', hoff, hoff', hpm⟩ := startChannels_loads_both hr hq hs hu
  simp only [launchSound, Bool.and_eq_true, decide_eq_true_eq] at hsound
  obtain ⟨⟨⟨⟨-, hn⟩, hn'⟩, -⟩, -⟩ := hsound
  refine ⟨o, o', hoff, hoff', ((mem_fits ..).1 ho).1, ((mem_fits ..).1 ho').1, apart_of_mem_fits hn hn' (hf ▸ ho'),
    fun k hk => ?_, fun k hk => ?_⟩ <;> rw [hpm]
  · refine get_pm_slotWrites_of_used .tx ho' ?_
    rw [hf]
    exact get_pm_slotWrites_self _ _ _ _ hk
  · exact get_pm_slotWrites_self _ _ _ _ hk

/-! ### A program without room (R61, R141, R234) -/

/-- START faults on the RX program where it fits nowhere, with neither channel configured. -/
theorem startChannels_noRxSpace (baud : Word) {r : Nat} (hr : s.rx.pin = .gpio r)
    (hfull : fits s.fabric.pm s.launch.progMemSize s.inst s.launch.rxProgLen = []) :
    startChannels baud s
      = ((s.latchDiv (s.divFor baud)).writes (rxPinWrites s.inst r)).raise (.progNoSpace .rx) := by
  rcases startChannels_cases baud s with ⟨p, hp, -, e⟩ | ⟨s2, ⟨hu, -⟩ | ⟨p, o, -, ho, -⟩, -⟩
  · cases hr.symm.trans hp
    exact e
  · cases hr.symm.trans hu
  · change o ∈ fits s.fabric.pm s.launch.progMemSize s.inst s.launch.rxProgLen at ho
    simp [hfull] at ho

/-- START faults on the TX program where the RX program has room and, however RX is then done, the TX program has none. -/
theorem startChannels_noTxSpace (baud : Word) {q : Nat} (hq : s.tx.pin = .gpio q)
    (hrx : ∀ r, s.rx.pin = .gpio r → fits s.fabric.pm s.launch.progMemSize s.inst s.launch.rxProgLen ≠ [])
    (hfull : ∀ d c s2, RxDone d c (s.latchDiv d) s2 →
      fits s2.fabric.pm s.launch.progMemSize s.inst s.launch.txProgLen = []) :
    ∃ s2 : State, s2.started = s.started ∧ s2.tx = s.tx ∧ startChannels baud s = s2.raise (.progNoSpace .tx) := by
  rcases startChannels_cases baud s with ⟨r, hr, hno, -⟩ | ⟨s2, h2, h⟩
  · exact absurd hno (hrx r hr)
  · obtain ⟨p, -, -, e⟩ | ⟨s3, ⟨hu, -⟩ | ⟨p, o, -, ho, -⟩, -⟩ := h
    · exact ⟨s2.writes (txPinWrites s2.inst p), h2.started_eq, h2.tx_eq, e⟩
    · rw [h2.tx_eq] at hu
      cases hq.symm.trans hu
    · rw [h2.sameRecord.launch, h2.sameRecord.inst] at ho
      change o ∈ fits s2.fabric.pm s.launch.progMemSize s.inst s.launch.txProgLen at ho
      simp [hfull _ _ s2 h2] at ho

/-- Settles O22: what fits nowhere in program memory fits nowhere once the RX program is loaded, and START faults on the first
program without room. -/
theorem startWithoutRoomFaults : Obligations.StartWithoutRoomFaults := by
  intro frame baud s hs hb hp hl
  rw [exec_start_of_checks frame hs hb hp hl]
  refine ⟨fun r hr hfull => ?_, fun q hq hrx hfull => ?_, fun r q hr hq hrx hfull => ?_⟩
  · exact ⟨_, rfl, by simp [startChannels_noRxSpace baud hr hfull, hs, State.latchDiv]⟩
  · obtain ⟨s2, hs2, ht2, e⟩ := startChannels_noTxSpace baud hq hrx fun d c s2 h2 =>
      List.subset_nil.1 (hfull ▸ fits_subset (fun k v hk => (keptByWrites_used k v).rxDone h2 hk) _ _ _)
    exact ⟨_, rfl, by simp [e, hs2, hs, ht2]⟩
  · obtain ⟨s2, hs2, ht2, e⟩ := startChannels_noTxSpace baud hq (fun _ _ => hrx) fun d c s2 h2 => by
      obtain ⟨hu, -⟩ | ⟨p, o, -, ho, rfl⟩ := h2
      · cases hr.symm.trans hu
      · exact (rxFabric_pm_eq ..).symm ▸ hfull o ho
    exact ⟨_, rfl, by simp [e, hs2, hs, ht2]⟩

/-! ### The enable is the last write (R76) -/

/-- The write is one of a lane's `EN` field. -/
def FabricWrite.setsEnable : FabricWrite → Bool
  | .lane _ _ (.en _) => true
  | _ => false

theorem Fabric.apply_en (f : Fabric) {w : FabricWrite} (h : w.setsEnable = false) (i l : Nat) :
    ((f.apply w).laneCfg i l).en = (f.laneCfg i l).en := by
  cases w with
  | lane i' l' lw =>
    rw [Fabric.apply_lane_laneCfg]
    split
    · next heq =>
      obtain ⟨rfl, rfl⟩ := heq
      cases lw with
      | en v => cases h
      | _ => rfl
    · rfl
  | _ => rfl

theorem Fabric.applyAll_en (i l : Nat) : ∀ (ws : List FabricWrite) (f : Fabric), (∀ w ∈ ws, w.setsEnable = false) →
    ((f.applyAll ws).laneCfg i l).en = (f.laneCfg i l).en
  | [], _, _ => rfl
  | w :: ws, f, h => by
    rw [Fabric.applyAll_cons, Fabric.applyAll_en i l ws _ fun w' hw' => h w' (List.mem_cons_of_mem w hw'),
      f.apply_en (h w List.mem_cons_self)]

/-- Of a list of writes whose last alone may set an enable, an initial part that enables a lane is all of it. -/
theorem eq_of_prefix_enables {f : Fabric} {i l : Nat} {ws init : List FabricWrite} {last : FabricWrite}
    (hws : ws <+: init ++ [last]) (hinit : ∀ w ∈ init, w.setsEnable = false)
    (hf : (f.laneCfg i l).en ≠ some true) (h : ((f.applyAll ws).laneCfg i l).en = some true) : ws = init ++ [last] := by
  rcases List.prefix_concat_iff.1 hws with hall | hpre
  · exact hall
  · rw [Fabric.applyAll_en i l ws f fun w hw => hinit w (hpre.subset hw)] at h
    exact absurd h hf

theorem slotWrites_setsEnable {i : Nat} {prog : Program} {o n : Nat} {w : FabricWrite}
    (h : w ∈ slotWrites i prog o n) : w.setsEnable = false := by
  obtain ⟨k, -, rfl⟩ := List.mem_map.1 h
  rfl

theorem rxFabric_eq_applyAll (f : Fabric) (i p l o n : Nat) (c : ClkDiv) :
    rxFabric f i p l o n c = f.applyAll (rxPinWrites i p ++ slotWrites i .rx o n ++ rxLaneWrites i p l o c) := by
  simp only [rxFabric, Fabric.applyAll_append]

theorem txFabric_eq_applyAll (f : Fabric) (i p l o n : Nat) (c : ClkDiv) :
    txFabric f i p l o n c = f.applyAll (txPinWrites i p ++ slotWrites i .tx o n ++ txLaneWrites i p l o c) := by
  simp only [txFabric, Fabric.applyAll_append]

/-- ConfigureRX makes its writes in the order of R143. -/
theorem configureRx_fabric {d : DivResult} {c : ClkDiv} {p : Nat} (hp : s.rx.pin = .gpio p)
    (h : configureRx d c s = .ok t) : ∃ o, t.fabric = s.fabric.applyAll
      (rxPinWrites s.inst p ++ slotWrites s.inst .rx o s.launch.rxProgLen ++ rxLaneWrites s.inst p s.rx.lane o c) := by
  rcases configureRx_cases d c s with ⟨hu, -⟩ | ⟨_, -, -, e⟩ | ⟨p', o, hp', -, e⟩
  · cases hp.symm.trans hu
  · cases e.symm.trans h
  · cases hp.symm.trans hp'
    cases e.symm.trans h
    exact ⟨o, rxFabric_eq_applyAll ..⟩

/-- ConfigureTX makes its writes in the order of R145. -/
theorem configureTx_fabric {d : DivResult} {c : ClkDiv} {p : Nat} (hp : s.tx.pin = .gpio p)
    (h : configureTx d c s = .ok t) : ∃ o, t.fabric = s.fabric.applyAll
      (txPinWrites s.inst p ++ slotWrites s.inst .tx o s.launch.txProgLen ++ txLaneWrites s.inst p s.tx.lane o c) := by
  rcases configureTx_cases d c s with ⟨hu, -⟩ | ⟨_, -, -, e⟩ | ⟨p', o, hp', -, e⟩
  · cases hp.symm.trans hu
  · cases e.symm.trans h
  · cases hp.symm.trans hp'
    cases e.symm.trans h
    exact ⟨o, txFabric_eq_applyAll ..⟩

/-- Of a channel's writes, whose enable comes last and alone, an initial part that enables a lane is all of it. -/
theorem eq_of_prefix_of_channelWrites {f : Fabric} {i l i' l' o n : Nat} {prog : Program}
    {ws pinWrites laneWrites : List FabricWrite}
    (hpin : ∀ w ∈ pinWrites, w.setsEnable = false) (hlane : ∀ w ∈ laneWrites, w.setsEnable = false)
    (hws : ws <+: pinWrites ++ slotWrites i prog o n ++ (laneWrites ++ [.lane i' l' (.en true)]))
    (hf : (f.laneCfg i l).en ≠ some true) (h : ((f.applyAll ws).laneCfg i l).en = some true) :
    ws = pinWrites ++ slotWrites i prog o n ++ (laneWrites ++ [.lane i' l' (.en true)]) := by
  rw [← List.append_assoc] at hws ⊢
  refine eq_of_prefix_enables hws ?_ hf h
  exact List.forall_mem_append.2 ⟨List.forall_mem_append.2 ⟨hpin, fun w => slotWrites_setsEnable⟩, hlane⟩

/-- Settles O26: the last of each channel's writes is its enable, and no write before it sets one. -/
theorem enableIsTheLastWrite : Obligations.EnableIsTheLastWrite := by
  refine ⟨fun d c s t p => configureRx_fabric, fun d c s t p => configureTx_fabric,
    fun f i p l o n c ws hws hf h => ?_, fun f i p l o n c ws hws hf h => ?_⟩
  · exact eq_of_prefix_of_channelWrites (laneWrites := (rxLaneWrites i p l o c).dropLast)
      (by simp [rxPinWrites, FabricWrite.setsEnable]) (by simp [rxLaneWrites, FabricWrite.setsEnable]) hws hf h
  · exact eq_of_prefix_of_channelWrites (laneWrites := (txLaneWrites i p l o c).dropLast)
      (by simp [txPinWrites, FabricWrite.setsEnable]) (by simp [txLaneWrites, FabricWrite.setsEnable]) hws hf h

end Sys2Proof.Machine
end

section
/-! ## The encoding: the decoder's outcomes, the round trips, DIVCODE, and the word a step runs

The proofs of the statements about 30_encoding. `and_mask_eq_matchWord_iff` says that a row's match and mask columns make the
two checks of the decoder, so each statement about `decode` is one about a row selecting a word. -/

namespace Sys2Proof

variable {c : Cmd} {op : Op}

/-! ### The two checks of the decoder (R98, R99, R100) -/

/-- The reserved-bit check passes exactly when the field between the operands and the opcode is zero (R98, R99). -/
theorem reservedSet_eq_false_iff :
    op.reservedSet c = false
      ↔ c.extractLsb' (operandWidth op) (56 - operandWidth op) = 0#(56 - operandWidth op) := by
  have harea : ∀ k < 64, operandArea.getLsbD k = decide (k < 56) := by decide
  rw [Op.reservedSet, bne_eq_false_iff_eq, BitVec.eq_of_getLsbD_eq_iff, BitVec.eq_of_getLsbD_eq_iff]
  simp only [BitVec.getLsbD_and, BitVec.getLsbD_extractLsb', BitVec.getLsbD_zero, getLsbD_mask]
  constructor
  · intro h k hk
    have hbit := h (operandWidth op + k) (by omega)
    rw [harea _ (by omega), decide_eq_true (by omega), decide_eq_true (by omega), Bool.and_true, Bool.and_true] at hbit
    rw [hbit, Bool.and_false]
  · intro h k hk
    by_cases hres : operandWidth op ≤ k ∧ k < 56
    · have hbit := h (k - operandWidth op) (by omega)
      rw [Nat.add_sub_cancel' hres.1, decide_eq_true (by omega), Bool.true_and] at hbit
      rw [hbit, Bool.false_and, Bool.false_and]
    · rw [harea k hk, Bool.and_assoc, ← Bool.decide_and, decide_eq_false (by omega), Bool.and_false]

/-- The match and mask columns of a row make the opcode check and the reserved-bit check (R97, R98). -/
theorem and_mask_eq_matchWord_iff :
    c &&& op.mask = op.matchWord ↔ opcOf c = op.opc ∧ op.reservedSet c = false := by
  have hw := operandWidth_le op
  rw [reservedSet_eq_false_iff, opcOf]
  simp only [BitVec.eq_of_getLsbD_eq_iff, BitVec.getLsbD_and, BitVec.getLsbD_extractLsb', BitVec.getLsbD_zero,
    getLsbD_mask, getLsbD_matchWord]
  constructor
  · intro h
    refine ⟨fun k hk => ?_, fun k hk => ?_⟩
    · have hbit := h (56 + k) (by omega)
      rw [decide_eq_true (by omega), Bool.and_true, if_neg (by omega), Nat.add_sub_cancel_left] at hbit
      rw [hbit, decide_eq_true hk, Bool.true_and]
    · have hbit := h (operandWidth op + k) (by omega)
      rw [decide_eq_true (by omega), Bool.and_true, if_pos (by omega)] at hbit
      rw [hbit, Bool.and_false]
  · rintro ⟨hop, hres⟩ k hk
    by_cases h56 : k < 56
    · rw [if_pos h56]
      by_cases hwk : operandWidth op ≤ k
      · have hbit := hres (k - operandWidth op) (by omega)
        rw [Nat.add_sub_cancel' hwk, decide_eq_true (by omega), Bool.true_and] at hbit
        rw [hbit, Bool.false_and]
      · rw [decide_eq_false (by omega), Bool.and_false]
    · have hbit := hop (k - 56) (by omega)
      rw [Nat.add_sub_cancel' (by omega), decide_eq_true (by omega), Bool.true_and] at hbit
      rw [if_neg h56, hbit, decide_eq_true (by omega), Bool.and_true]

/-- The decoder's outcome for a word with the opcode of a row (R98). -/
theorem decode_of_opcOf_eq (h : opcOf c = op.opc) :
    decode c = if op.reservedSet c then .error .reserved else .ok (op.operands c) := by
  simp only [decode, h, ofOpc_opc]

/-- The decoder's outcome for a word with an opcode outside the map (R100). -/
theorem decode_of_opcOf_ne (h : ∀ op : Op, opcOf c ≠ op.opc) : decode c = .error .illegalOp := by
  have hnone : Op.ofOpc (opcOf c) = none := List.find?_eq_none.2 fun op _ => by simpa using (h op).symm
  simp only [decode, hnone]

/-- A word decodes exactly when some row selects it, to that row's command with the fields of the word. -/
theorem decode_eq_ok_iff {i : Instr} :
    decode c = .ok i ↔ ∃ op : Op, c &&& op.mask = op.matchWord ∧ op.operands c = i := by
  simp only [and_mask_eq_matchWord_iff]
  constructor
  · intro h
    by_cases hrow : ∃ op : Op, opcOf c = op.opc
    · obtain ⟨op, hop⟩ := hrow
      rw [decode_of_opcOf_eq hop] at h
      split at h
      · cases h
      · next hres => exact ⟨op, ⟨hop, by simpa using hres⟩, Except.ok.inj h⟩
    · rw [decode_of_opcOf_ne (not_exists.1 hrow)] at h
      cases h
  · rintro ⟨op, ⟨hop, hres⟩, rfl⟩
    rw [decode_of_opcOf_eq hop, hres]
    rfl

@[simp] theorem op_operands (c : Cmd) (op : Op) : (op.operands c).op = op := by
  cases op <;> rfl

/-! ### From a command to its word and back (R91 to R93) -/

/-- The word of every command is selected by the command's own row (R97). -/
theorem encode_and_mask_op (i : Instr) : encode i &&& i.op.mask = i.op.matchWord := by
  cases i with
  | config txPin rxPin rxLane txLane inst => exact Laws.TableRow.config txPin rxPin rxLane txLane inst
  | start frame baud => exact Laws.TableRow.start frame baud
  | stop => exact Laws.TableRow.stop
  | endCmd => exact Laws.TableRow.endCmd
  | available => exact Laws.TableRow.available
  | peek => exact Laws.TableRow.peek
  | read => exact Laws.TableRow.read
  | write byte => exact Laws.TableRow.write byte
  | flush => exact Laws.TableRow.flush
  | ready => exact Laws.TableRow.ready
  | divcalc baud => exact Laws.TableRow.divcalc baud
  | getdiv => exact Laws.TableRow.getdiv
  | getchan dir => exact Laws.TableRow.getchan dir

/-- A number below 16 survives its 4-bit field, of a lane or of `INS` (R93). -/
theorem toNat_ofNat_lane {n : Nat} (h : n < 16) : (BitVec.ofNat 4 n).toNat = n := by
  rw [BitVec.toNat_ofNat, Nat.mod_eq_of_lt h]

/-- The operand fields of a command's word are the command's operands, where each fits its field. -/
theorem operands_encode {i : Instr} (h : i.wellFormed = true) : i.op.operands (encode i) = i := by
  cases i with
  | config txPin rxPin rxLane txLane inst =>
    simp only [Instr.wellFormed, Bool.and_eq_true, decide_eq_true_eq] at h
    obtain ⟨⟨⟨⟨htx, hrx⟩, hrl⟩, htl⟩, hin⟩ := h
    simp (disch := decide) only [Instr.op, Op.operands, extractLsb'_encode, config_txp, config_rxp, config_rxl, config_txl,
      config_ins, pinOfField_pinField htx, pinOfField_pinField hrx, toNat_ofNat_lane hrl, toNat_ofNat_lane htl,
      toNat_ofNat_lane hin]
  | start frame baud =>
    simp (disch := decide) only [Instr.op, Op.operands, extractLsb'_encode, start_frame, start_baud]
  | write byte =>
    simp (disch := decide) only [Instr.op, Op.operands, extractLsb'_encode, write_byte]
  | divcalc baud =>
    simp (disch := decide) only [Instr.op, Op.operands, extractLsb'_encode, divcalc_baud]
  | getchan dir =>
    simp (disch := decide) only [Instr.op, Op.operands, extractLsb'_encode, getchan_dir, dirOfField_dirField]
  | _ => rfl

/-- Settles O2: the command's own row selects its word, and the fields of that row read its operands back. -/
theorem encodeThenDecode : Obligations.EncodeThenDecode := fun i h =>
  decode_eq_ok_iff.2 ⟨i.op, encode_and_mask_op i, operands_encode h⟩

/-! ### From a word to its command and back (R91 to R93) -/

/-- The operands a row reads from a word it selects are written back as the word's operand area. -/
theorem operandBits_operands (h : c &&& op.mask = op.matchWord) :
    operandBits (op.operands c) = c.extractLsb' 0 56 := by
  have hres := reservedSet_eq_false_iff.1 (and_mask_eq_matchWord_iff.1 h).2
  cases op with
  | config =>
    simp only [Op.operands, operandBits, pinField_pinOfField, BitVec.ofNat_toNat, BitVec.setWidth_eq]
    rw [← show c.extractLsb' 28 28 = 0#28 from hres]
    simp only [BitVec.extractLsb'_append_extractLsb'_eq_extractLsb']
  | start =>
    rw [Op.operands, operandBits, ← show c.extractLsb' 48 8 = 0#8 from hres]
    simp only [BitVec.extractLsb'_append_extractLsb'_eq_extractLsb']
  | write =>
    rw [Op.operands, operandBits, ← show c.extractLsb' 8 48 = 0#48 from hres]
    exact BitVec.extractLsb'_append_extractLsb'_eq_extractLsb' rfl
  | divcalc =>
    rw [Op.operands, operandBits, ← show c.extractLsb' 32 24 = 0#24 from hres]
    exact BitVec.extractLsb'_append_extractLsb'_eq_extractLsb' rfl
  | getchan =>
    rw [Op.operands, operandBits, dirField_dirOfField, ← show c.extractLsb' 1 55 = 0#55 from hres]
    exact BitVec.extractLsb'_append_extractLsb'_eq_extractLsb' rfl
  | _ => exact hres.symm

theorem wellFormed_operands (c : Cmd) (op : Op) : (op.operands c).wellFormed = true := by
  cases op with
  | config =>
    simp only [Op.operands, Instr.wellFormed, pinField_pinOfField, Bool.true_and, Bool.and_eq_true, decide_eq_true_eq]
    exact ⟨⟨BitVec.isLt _, BitVec.isLt _⟩, BitVec.isLt _⟩
  | _ => rfl

/-- A word that its row selects is the word of the command the row reads from it. -/
theorem encode_operands (h : c &&& op.mask = op.matchWord) : encode (op.operands c) = c := by
  obtain ⟨hop, -⟩ := and_mask_eq_matchWord_iff.1 h
  calc encode (op.operands c) = c.extractLsb' 56 8 ++ c.extractLsb' 0 56 := by
        rw [encode, op_operands, operandBits_operands h, ← hop, opcOf]
    _ = c.extractLsb' 0 64 := BitVec.extractLsb'_append_extractLsb'_eq_extractLsb' rfl
    _ = c := BitVec.extractLsb'_eq_self

/-- Settles O3: the row that selects the word reads a well-formed command from it, and every bit of the word is an opcode bit,
an operand bit or a reserved zero. -/
theorem decodeThenEncode : Obligations.DecodeThenEncode := by
  intro c i h
  obtain ⟨op, hsel, rfl⟩ := decode_eq_ok_iff.1 h
  exact ⟨wellFormed_operands c op, encode_operands hsel⟩

/-- Settles O4: the decoder reads from a word the command of the row that selects it. -/
theorem rowSelectsDecodedWord : Obligations.RowSelectsDecodedWord := by
  intro c op
  constructor
  · intro h
    exact ⟨op.operands c, decode_eq_ok_iff.2 ⟨op, h, rfl⟩, op_operands c op⟩
  · rintro ⟨i, hi, rfl⟩
    obtain ⟨op, hsel, rfl⟩ := decode_eq_ok_iff.1 hi
    rwa [op_operands]

/-- Settles O1: each text and each word is evaluated, and each word decodes because it is the word of its command. -/
theorem workedEncodingsAgree : Obligations.WorkedEncodingsAgree :=
  ⟨⟨by decide +kernel, rfl, encodeThenDecode (.config (.gpio 4) (.gpio 5) 0 1 0) rfl⟩,
    ⟨by decide +kernel, rfl, encodeThenDecode (.start 0#16 115200#32) rfl⟩,
    ⟨by decide +kernel, rfl, encodeThenDecode (.write 0x41#8) rfl⟩,
    ⟨by decide +kernel, rfl, encodeThenDecode (.getchan .tx) rfl⟩⟩

end Sys2Proof

namespace Sys2Proof.Machine

/-! ### The word a step runs, and words that are no command (R90, R98 to R100) -/

theorem runCommand_of_decode_ok {w : Cmd} {i : Instr} (h : decode w = .ok i) (s : State) :
    runCommand w s = exec i s := by
  simp only [runCommand, h]

theorem runCommand_of_decode_error {w : Cmd} {e : DecodeError} (h : decode w = .error e) (s : State) :
    runCommand w s = .next (s.raise (decodeFault w e)) := by
  simp only [runCommand, h]

/-- A word with a valid opcode and a reserved field that is not zero only raises its fault (R99). -/
theorem runCommand_of_reserved {c : Cmd} {op : Op} (hop : opcOf c = op.opc)
    (hne : c.extractLsb' (operandWidth op) (56 - operandWidth op) ≠ 0#(56 - operandWidth op)) (s : State) :
    runCommand c s = .next (s.raise (.reserved c)) := by
  have hres : op.reservedSet c = true := by
    rwa [← Bool.not_eq_false, reservedSet_eq_false_iff]
  exact runCommand_of_decode_error (by rw [decode_of_opcOf_eq hop, hres]; rfl) s

/-- Settles O6: a bit of the mask below 56 is a bit of the row's reserved field, which for WRITE is `CMD[55:8]`. -/
theorem reservedBitFaults : Obligations.ReservedBitFaults := by
  refine ⟨fun c op k s hop hk hm hc => runCommand_of_reserved hop (fun hz => ?_) s,
    fun c s hop hne => runCommand_of_reserved (op := .write) hop hne s⟩
  rw [getLsbD_mask, decide_eq_true_eq] at hm
  have hbit := congrArg (fun b => b.getLsbD (k - operandWidth op)) hz
  simp only [BitVec.getLsbD_extractLsb', BitVec.getLsbD_zero, Nat.add_sub_cancel' hm.1, hc, Bool.and_true,
    decide_eq_false_iff_not] at hbit
  omega

/-- Settles O5: such a word decodes to `illegalOp`; the values outside the map are counted. -/
theorem illegalOpcodeFaults : Obligations.IllegalOpcodeFaults :=
  ⟨fun _ s h => runCommand_of_decode_error (decode_of_opcOf_ne h) s, by decide +kernel⟩

/-- It is the host's turn, and `ts` is the schedule after it: the turn is scheduled, or the schedule has ended and no fair TX step
is due (log 3). -/
def State.hostsTurn (s : State) (ts : List Turn) : Prop :=
  s.turns = .host :: ts ∨ (s.turns = [] ∧ ts = [] ∧ (s.hostWaits && s.txFair) = false)

theorem step_of_hostsTurn {s : State} {ts : List Turn} (hf : s.fault = none) (ht : s.hostsTurn ts) :
    step s = hostTurn { s with turns := ts } := by
  rcases ht with ht | ⟨ht, rfl, hw⟩
  · simp only [step, hf, takeTurn, ht]
  · have hs : { s with turns := [] } = s := by rw [← ht]
    rw [hs]
    simp only [step, hf, takeTurn, ht, hw, Bool.false_eq_true, if_false]

/-- On the host's turn a step runs the pending word, or the next word of the sequence (R90). -/
theorem step_eq_runCommand {s : State} {ts : List Turn} (hf : s.fault = none) (ht : s.hostsTurn ts) (w : Cmd)
    (ws : List Cmd) :
    (s.port = some w → step s = runCommand w { s with turns := ts })
    ∧ (s.port = none → s.cmds = w :: ws →
      step s = runCommand w { s with turns := ts, cmds := ws, port := some w, resp := none }) := by
  rw [step_of_hostsTurn hf ht]
  refine ⟨fun hp => ?_, fun hp hc => ?_⟩
  · simp only [hostTurn, hp]
  · simp only [hostTurn, hp, hc, State.accept]

/-- Settles O48: a step on the host's turn runs the word, which means its command where it decodes; the lanes' turns are the
branches of `takeTurn`. -/
theorem stepRunsTheDecodedCommand : Obligations.StepRunsTheDecodedCommand := by
  refine ⟨fun s ts w ws i hf hd ht => ?_, fun s ts w ws hf ht => step_eq_runCommand hf ht w ws,
    fun s ts line low hf ht => ?_, fun s ts hf ht => ?_⟩
  · simpa only [runCommand_of_decode_ok hd] using step_eq_runCommand hf ht w ws
  · simp only [step, hf, takeTurn, ht]
  · simp only [step, hf, takeTurn, ht]

/-! ### DIVCODE (R95) -/

theorem divCode_int (n : BitVec 16) (f : BitVec 8) : (divCode (.inRange n f)).extractLsb' 16 16 = n :=
  (BitVec.extractLsb'_append_eq_of_le (by decide)).trans BitVec.extractLsb'_append_eq_left

theorem divCode_frac (n : BitVec 16) (f : BitVec 8) : (divCode (.inRange n f)).extractLsb' 8 8 = f :=
  (BitVec.extractLsb'_append_eq_of_le (by decide)).trans BitVec.extractLsb'_append_eq_right

theorem divCode_low (n : BitVec 16) (f : BitVec 8) : (divCode (.inRange n f)).extractLsb' 0 8 = 0#8 :=
  BitVec.extractLsb'_append_eq_right

/-- The fields side by side are the fields shifted into place. -/
theorem divCode_eq_shifts (n : BitVec 16) (f : BitVec 8) :
    divCode (.inRange n f) = (n.setWidth 32 <<< 16) ||| (f.setWidth 32 <<< 8) := by
  refine BitVec.eq_of_getLsbD_eq fun k hk => ?_
  simp only [divCode, BitVec.getLsbD_append, BitVec.getLsbD_or, BitVec.getLsbD_shiftLeft, BitVec.getLsbD_setWidth,
    BitVec.getLsbD_zero]
  by_cases h8 : k < 8
  · simp [h8, show k < 16 by omega]
  · by_cases h16 : k < 16
    · simp [h8, h16, hk, show k - 8 < 8 by omega, show k - 8 < 32 by omega]
    · have hf : f.getLsbD (k - 8) = false := BitVec.getLsbD_of_ge _ _ (by omega)
      simp [h8, h16, hk, hf, show ¬k - 8 < 8 by omega, show k - 16 < 32 by omega, Nat.sub_sub]

/-- A quotient in range has integer part at least 1 (R121). -/
theorem one_le_int_of_quantize {num den : Nat} {n : BitVec 16} {f : BitVec 8} (h : quantize num den = .inRange n f) :
    1 ≤ n.toNat := by
  unfold quantize at h
  split at h
  · next hr =>
    obtain ⟨hlo, hhi⟩ := hr
    have hden : 0 < den := by omega
    have hone : 1 ≤ num / den := (Nat.one_le_div_iff hden).2 hlo
    have hlt : num / den < 65536 := (Nat.div_lt_iff_lt_mul hden).2 hhi
    cases h
    rwa [BitVec.toNat_ofNat, Nat.mod_eq_of_lt hlt]
  · cases h

/-- An in-range result of the calculator is a quantized quotient, under either arithmetic (R121). -/
theorem exists_quantize_of_divCalc {arith : DivArith} {clk : BitVec 32} {baud : Word} {n : BitVec 16} {f : BitVec 8}
    (h : divCalc arith clk baud = .inRange n f) : ∃ num den, quantize num den = .inRange n f := by
  cases arith with
  | exactTrunc => exact ⟨_, _, h⟩
  | float32Trunc =>
    simp only [divCalc] at h
    split at h
    · cases h
    · exact ⟨_, _, h⟩

/-- Settles O12: the layout field by field; an in-range code is not 0 because its `INT` field is at least 1. -/
theorem divcodeLayout : Obligations.DivcodeLayout := by
  refine ⟨fun n f => ⟨divCode_eq_shifts n f, divCode_int n f, divCode_frac n f, divCode_low n f⟩, fun _ _ => rfl,
    fun arith clk baud n f h => ?_⟩
  obtain ⟨num, den, hq⟩ := exists_quantize_of_divCalc h
  have hint := one_le_int_of_quantize hq
  refine ⟨hint, fun hz => ?_⟩
  have hn := divCode_int n f
  rw [hz] at hn
  subst hn
  exact absurd hint (by decide)

end Sys2Proof.Machine
end

section
/-! ## The clock divisor: the truncated quotient, binary32 rounding, and the commands DIVCALC and GETDIV

The proofs of the statements about 40_divisor. The two fields of an in-range divisor, read as one number of 1/256 units, are the
quotient `256 * num / den` of naturals (`units_eq_of_quantize`); the bounds and the order of divisors are those of this quotient. -/

namespace Sys2Proof.Machine

variable {num den : Nat} {n : BitVec 16} {f : BitVec 8}

/-! ### The quantizer (R121) -/

theorem quantize_inRange (hlo : den ≤ num) (hhi : num < 65536 * den) :
    quantize num den = .inRange (BitVec.ofNat 16 (num / den)) (BitVec.ofNat 8 (256 * num / den % 256)) :=
  if_pos ⟨hlo, hhi⟩

theorem quantize_outOfRange (h : ¬(den ≤ num ∧ num < 65536 * den)) :
    quantize num den = .outOfRange (num / num.gcd den) (den / num.gcd den) :=
  if_neg h

theorem isInRange_quantize_iff : (quantize num den).isInRange = true ↔ den ≤ num ∧ num < 65536 * den := by
  by_cases h : den ≤ num ∧ num < 65536 * den
  · exact iff_of_true (congrArg DivResult.isInRange (quantize_inRange h.1 h.2)) h
  · exact iff_of_false (by simp [quantize_outOfRange h, DivResult.isInRange]) h

theorem range_of_quantize (h : quantize num den = .inRange n f) : den ≤ num ∧ num < 65536 * den :=
  isInRange_quantize_iff.1 (congrArg DivResult.isInRange h)

/-- In units of 1/256, a divisor in range is the exact quotient rounded down. -/
theorem units_eq_of_quantize (h : quantize num den = .inRange n f) : 256 * n.toNat + f.toNat = 256 * num / den := by
  obtain ⟨hlo, hhi⟩ := range_of_quantize h
  have hint : num / den < 65536 := Nat.div_lt_of_lt_mul (by rwa [Nat.mul_comm])
  have hquot : 256 * num / den / 256 = num / den := by
    rw [Nat.div_div_eq_div_mul, Nat.mul_comm den, Nat.mul_div_mul_left _ _ (by decide)]
  rw [quantize_inRange hlo hhi] at h
  cases h
  rw [BitVec.toNat_ofNat, BitVec.toNat_ofNat, Nat.mod_eq_of_lt hint]
  omega

/-- `1 <= x < 65536`, of the rational `x = num / den` and of its numerator. -/
theorem ratio_inRange_iff (hden : 0 < den) :
    1 ≤ (num : Rat) / den ∧ (num : Rat) / den < 65536 ↔ den ≤ num ∧ num < 65536 * den := by
  have hpos : (0 : Rat) < den := Nat.cast_pos.2 hden
  rw [one_le_div₀ hpos, div_lt_iff₀ hpos]
  exact_mod_cast Iff.rfl

theorem quantize_eq_floor (hlo : den ≤ num) (hhi : num < 65536 * den) :
    quantize num den
      = .inRange (BitVec.ofNat 16 ⌊(num : Rat) / den⌋₊) (BitVec.ofNat 8 (⌊256 * ((num : Rat) / den)⌋₊ % 256)) := by
  have hunits : ⌊256 * ((num : Rat) / den)⌋₊ = 256 * num / den := by
    rw [← mul_div_assoc]
    exact_mod_cast Nat.floor_div_eq_div (K := Rat) (256 * num) den
  rw [quantize_inRange hlo hhi, hunits, Nat.floor_div_eq_div]

/-- Out of range, the lowest terms `quantize` keeps stand for the same rational. -/
theorem quantize_outOfRange_eq_ratio (hden : 0 < den) (h : ¬(den ≤ num ∧ num < 65536 * den)) :
    ∃ a b : Nat, b ≠ 0 ∧ (a : Rat) / b = (num : Rat) / den ∧ quantize num den = .outOfRange a b :=
  ⟨_, _, (Nat.div_gcd_pos_of_pos_right num hden).ne',
    Nat.cast_div_div_div_cancel_right (Nat.gcd_dvd_right num den) (Nat.gcd_dvd_left num den), quantize_outOfRange h⟩

/-! ### The calculator under `exact_trunc` (R120, R121, R126 to R128) -/

variable {clk : BitVec 32} {baud : Word}

theorem divCalc_exactTrunc (clk : BitVec 32) (baud : Word) :
    divCalc .exactTrunc clk baud = quantize clk.toNat (8 * baud.toNat) := rfl

/-- The calculator's premise, that the rate is at least 1 (R122). -/
theorem baud_toNat_pos (h : baud ≠ 0#32) : 0 < baud.toNat :=
  Nat.pos_of_ne_zero fun hz => h (BitVec.eq_of_toNat_eq hz)

theorem eight_mul_baud_pos (h : baud ≠ 0#32) : 0 < 8 * baud.toNat :=
  Nat.mul_pos (by decide) (baud_toNat_pos h)

theorem isInRange_divCalc_exactTrunc_iff :
    (divCalc .exactTrunc clk baud).isInRange = true
      ↔ 8 * baud.toNat ≤ clk.toNat ∧ clk.toNat < 65536 * (8 * baud.toNat) := by
  rw [divCalc_exactTrunc, isInRange_quantize_iff]

/-- Settles O7: the quotient of naturals is the floor of the rational, in range and in units of 1/256. -/
theorem exactDivisorIsTruncatedQuotient : Obligations.ExactDivisorIsTruncatedQuotient := by
  intro clk baud hb x
  have hden := eight_mul_baud_pos hb
  have hx : x = (clk.toNat : Rat) / (8 * baud.toNat : Nat) := by simp only [x]; push_cast; rfl
  rw [divCalc_exactTrunc, hx]
  refine ⟨fun h1 h2 => ?_, fun h => ?_⟩
  · obtain ⟨hlo, hhi⟩ := (ratio_inRange_iff hden).1 ⟨h1, h2⟩
    exact quantize_eq_floor hlo hhi
  · exact quantize_outOfRange_eq_ratio hden (mt (ratio_inRange_iff hden).2 h)

/-- Settles O9: both bounds on `baud` are the bounds of the quantizer, solved for the denominator. -/
theorem inRangeExactlyBetweenBounds : Obligations.InRangeExactlyBetweenBounds := by
  refine ⟨fun clk baud _ => ?_, fun baud _ => ?_⟩ <;> rw [isInRange_divCalc_exactTrunc_iff]
  · have hlower : (clk.toNat : Rat) / (8 * 65536) < baud.toNat ↔ clk.toNat < baud.toNat * (8 * 65536) := by
      rw [div_lt_iff₀ (by norm_num)]
      exact_mod_cast Iff.rfl
    have hupper : (baud.toNat : Rat) ≤ (clk.toNat : Rat) / 8 ↔ baud.toNat * 8 ≤ clk.toNat := by
      rw [le_div_iff₀ (by norm_num)]
      exact_mod_cast Iff.rfl
    rw [hlower, hupper]
    omega
  · have hclk : (125000000#32).toNat = 125000000 := rfl
    rw [hclk]
    omega

/-- The quantized value `Q` of a divisor in range, and the exact quotient within 1/256 above it (R127). -/
theorem quantized_close (h : quantize num den = .inRange n f) :
    (n.toNat : Rat) + f.toNat / 256 ≤ (num : Rat) / den
      ∧ (num : Rat) / den < (n.toNat : Rat) + f.toNat / 256 + 1 / 256 := by
  obtain ⟨hlo, hhi⟩ := range_of_quantize h
  have hden : 0 < den := by omega
  have hpos : (0 : Rat) < den := Nat.cast_pos.2 hden
  have hle : ((256 * n.toNat + f.toNat : Nat) : Rat) * den ≤ (256 * num : Nat) := by
    exact_mod_cast (Nat.le_div_iff_mul_le hden).1 (units_eq_of_quantize h).le
  have hlt : ((256 * num : Nat) : Rat) < (256 * n.toNat + f.toNat + 1 : Nat) * den := by
    exact_mod_cast (Nat.div_lt_iff_lt_mul hden).1 (Nat.lt_succ_of_le (units_eq_of_quantize h).ge)
  push_cast at hle hlt
  rw [le_div_iff₀ hpos, div_lt_iff₀ hpos]
  constructor <;> linarith

/-- The rate `c / (8 * Q)` that a divisor `Q` within 1/256 below the exact quotient `c / (8 * b)` produces (R127). -/
theorem producedRate_bounds {c b Q : Rat} (hb : 0 < b) (hQ : 0 < Q) (hle : Q ≤ c / (8 * b))
    (hlt : c / (8 * b) < Q + 1 / 256) : b ≤ c / (8 * Q) ∧ c / (8 * Q) < b * (1 + 1 / (256 * Q)) := by
  rw [le_div_iff₀ (by positivity)] at hle ⊢
  rw [div_lt_iff₀ (by positivity)] at hlt ⊢
  have hprod : b * (1 + 1 / (256 * Q)) * (8 * Q) = (Q + 1 / 256) * (8 * b) := by field_simp
  exact ⟨by linarith, hprod ▸ hlt⟩

theorem quantized_inRange (n : BitVec 16) (f : BitVec 8) :
    (DivResult.inRange n f).quantized = some ((n.toNat : Rat) + f.toNat / 256) := by
  rw [DivResult.quantized, Rat.mkRat_eq_div]
  push_cast
  rw [add_div, mul_div_cancel_left₀ _ (by norm_num)]

/-- Settles O10: the units of the divisor are a floor, and the two bounds on the rate are those on `q`, solved for the rate. -/
theorem quantizedDivisorIsClose : Obligations.QuantizedDivisorIsClose := by
  intro clk baud n f hb h q Q
  obtain ⟨hle, hlt⟩ : Q ≤ q ∧ q < Q + 1 / 256 := by
    simpa [q, Q] using quantized_close ((divCalc_exactTrunc clk baud).symm.trans h)
  have hbaud : (0 : Rat) < baud.toNat := Nat.cast_pos.2 (baud_toNat_pos hb)
  have hint : (1 : Rat) ≤ n.toNat := Nat.one_le_cast.2 (one_le_int_of_quantize h)
  have hQ : 0 < Q := by positivity
  exact ⟨quantized_inRange n f, hle, hlt, producedRate_bounds hbaud hQ hle hlt⟩

/-- Settles O11: the units of a divisor grow with the clock and fall with the baud rate. -/
theorem divisorIsMonotone : Obligations.DivisorIsMonotone := by
  intro clk clk' baud baud' n n' f f' hbaud hclk h h'
  rw [divCalc_exactTrunc] at h h'
  obtain ⟨hlo, hhi⟩ := range_of_quantize h
  have hpos : 8 * baud.toNat ≠ 0 := by omega
  have hunits : 256 * clk'.toNat / (8 * baud'.toNat) ≤ 256 * clk.toNat / (8 * baud.toNat) :=
    Nat.div_le_div (by omega) (by omega) hpos
  rw [← units_eq_of_quantize h, ← units_eq_of_quantize h'] at hunits
  have hf : f.toNat < 256 := f.isLt
  have hf' : f'.toNat < 256 := f'.isLt
  omega

/-! ### The calculator under `float32_trunc` (R121) -/

theorem divCalc_float32Trunc (clk : BitVec 32) (baud : Word) :
    divCalc .float32Trunc clk baud
      = if 8#32 * baud = 0#32 then .outOfRange 0 1
        else quantize (fl32 (fl32 clk.toNat 1) (fl32 (8#32 * baud).toNat 1)) (2 ^ 64) := by
  have hprod : BitVec.ofNat 32 (oversample * baud.toNat) = 8#32 * baud := by
    rw [BitVec.ofNat_mul, BitVec.ofNat_toNat, BitVec.setWidth_eq]
    rfl
  simp only [divCalc, hprod]

theorem fl32_of_pos (hnum : 0 < num) (den : Nat) :
    fl32 num den
      = roundHalfEven (num * 2 ^ 64) (den * 2 ^ ((num * 2 ^ 64 / den).log2 - 23)) * 2 ^ ((num * 2 ^ 64 / den).log2 - 23) :=
  if_neg hnum.ne'

theorem roundHalfEven_le (num den : Nat) : roundHalfEven num den ≤ num / den + 1 := by
  simp only [roundHalfEven]
  split_ifs <;> omega

/-- `roundHalfEven` is within half of the quotient, and even on a tie. -/
theorem roundHalfEven_nearest (hden : 0 < den) :
    2 * (roundHalfEven num den * den) ≤ 2 * num + den
      ∧ 2 * num ≤ 2 * (roundHalfEven num den * den) + den
      ∧ (2 * (roundHalfEven num den * den) = 2 * num + den ∨ 2 * num = 2 * (roundHalfEven num den * den) + den →
          roundHalfEven num den % 2 = 0) := by
  have hdiv : num / den * den + num % den = num := Nat.div_add_mod' num den
  have hmod : num % den < den := Nat.mod_lt num hden
  have hup : (num / den + 1) * den = num / den * den + den := Nat.succ_mul _ _
  simp only [roundHalfEven]
  split_ifs <;> omega

/-- The exponent `fl32` takes gives the scaled quotient 24 bits. -/
theorem fl32_exponent (hden : 0 < den) (h : 2 ^ 23 * den ≤ num) :
    2 ^ 23 * 2 ^ ((num / den).log2 - 23) * den ≤ num ∧ num < 2 ^ 24 * 2 ^ ((num / den).log2 - 23) * den := by
  have hquot : 2 ^ 23 ≤ num / den := (Nat.le_div_iff_mul_le hden).2 h
  have hne : num / den ≠ 0 := by omega
  have hlog : 23 ≤ (num / den).log2 := (Nat.le_log2 hne).2 hquot
  have hlow : 23 + ((num / den).log2 - 23) = (num / den).log2 := by omega
  have hhigh : 24 + ((num / den).log2 - 23) = (num / den).log2 + 1 := by omega
  rw [← pow_add, ← pow_add, hlow, hhigh, ← Nat.le_div_iff_mul_le hden, ← Nat.div_lt_iff_lt_mul hden]
  exact ⟨Nat.log2_self_le hne, Nat.lt_log2_self⟩

/-- Settles O8: `fl32` rounds to units of the power of two that gives the quotient 24 bits. -/
theorem floatDivisorRoundsToNearestEven : Obligations.FloatDivisorRoundsToNearestEven := by
  refine ⟨fun clk baud => ?_, fun num den hnum hden hbig => ?_⟩
  · rw [divCalc_float32Trunc]
    exact ⟨fun h => if_pos h, fun h => if_neg h⟩
  · obtain ⟨hlow, hhigh⟩ := fl32_exponent hden hbig
    have hfl := fl32_of_pos hnum den
    generalize (num * 2 ^ 64 / den).log2 - 23 = e at hlow hhigh hfl
    have hunit : 0 < den * 2 ^ e := by positivity
    have hsig : num * 2 ^ 64 / (den * 2 ^ e) < 2 ^ 24 := by
      rw [Nat.div_lt_iff_lt_mul hunit]
      linarith
    obtain ⟨hupper, hlower, htie⟩ := roundHalfEven_nearest (num := num * 2 ^ 64) hunit
    have hle := roundHalfEven_le (num * 2 ^ 64) (den * 2 ^ e)
    refine ⟨_, e, hfl, hle.trans hsig, hlow, hhigh, ?_⟩
    rw [Nat.mul_assoc _ (2 ^ e) den, Nat.mul_comm (2 ^ e) den]
    exact ⟨hupper, hlower, htie⟩

/-! ### The commands (R122, R124, R125) -/

theorem exec_divcalc_of_ne_zero (h : baud ≠ 0#32) (s : State) :
    exec (.divcalc baud) s = .next (s.respond (divCode (s.divFor baud))) :=
  if_neg h

theorem exec_divcalc_zero (s : State) :
    exec (.divcalc 0#32) s = .next (s.raise (.baudZero (encode (.divcalc 0#32)))) := by
  simp only [exec, execDivcalc, if_true]

theorem exec_getdiv_of_some {s : State} {d : DivResult} (h : s.div = some d) :
    exec .getdiv s = .next (s.respond (divCode d)) := by
  simp only [exec, execGetdiv, h]

theorem exec_getdiv_of_none {s : State} (h : s.div = none) :
    exec .getdiv s = .next (s.raise (.notStarted (encode .getdiv))) := by
  simp only [exec, execGetdiv, h]

/-- An out-of-range quotient answers 0 (R95, R125). -/
theorem divCode_divCalc_outOfRange (h : ¬(8 * baud.toNat ≤ clk.toNat ∧ clk.toNat < 65536 * (8 * baud.toNat))) :
    divCode (divCalc .exactTrunc clk baud) = 0#32 := by
  rw [divCalc_exactTrunc, quantize_outOfRange h]
  rfl

theorem quantize_self (h : 0 < num) : quantize num num = .inRange 1#16 0#8 := by
  rw [quantize_inRange le_rfl (by omega), Nat.div_self h, Nat.mul_div_cancel _ h]

/-- Settles O13: the corner cases are the two ends of the range, with the quotient 1 itself in range. -/
theorem divcalcAnswers : Obligations.DivcalcAnswers := by
  refine ⟨fun baud s h => exec_divcalc_of_ne_zero h s, exec_divcalc_zero, fun clk baud hb => ?_⟩
  have hden := eight_mul_baud_pos hb
  refine ⟨fun h => ?_, fun h => ?_, ?_, fun h => ?_⟩
  · exact divCode_divCalc_outOfRange (by omega)
  · exact divCode_divCalc_outOfRange (by omega)
  · exact divCode_divCalc_outOfRange fun hr => absurd hr.1 (Nat.not_le.2 hden)
  · rw [divCalc_exactTrunc, h, quantize_self hden]
    rfl

/-- Settles O14, by the two cases of the latched divisor. -/
theorem getdivAnswers : Obligations.GetdivAnswers :=
  ⟨fun _ _ h => exec_getdiv_of_some h, fun _ h => exec_getdiv_of_none h⟩

end Sys2Proof.Machine
end

section
/-! ## The channel controller: where a channel's writes may fall, what START configures, and CONFIG, START and GETCHAN

The proofs of the statements about 41_channel_control. `ChannelFrame` says once what a channel's configuration leaves alone,
even one that faults: that START touches only the set channels, and that configuring TX leaves a configured RX lane as it is,
both follow from it. -/

namespace Sys2Proof.Machine

variable {s t : State}

/-! ### Where a channel's writes may fall (R153, R154) -/

/-- The channel, on coprocessor `i`, has a pin, and lane `l` of coprocessor `i'` is its lane. -/
abbrev Channel.hasLane (ch : Channel) (i i' l : Nat) : Prop := ch.pin ≠ .unset ∧ (i', l) = (i, ch.lane)

/-- The channel, on coprocessor `i`, has the pin `p` as coprocessor `i'` sees it. -/
abbrev Channel.hasPin (ch : Channel) (i i' p : Nat) : Prop := i' = i ∧ ch.pin = .gpio p

/-- From `f` to `g`, only the lane, the FIFOs and the pin of the channel `ch` on coprocessor `i` are written, if its pin is set
at all, and free slots of that coprocessor, with code of `prog`. -/
structure ChannelFrame (ch : Channel) (prog : Program) (i : Nat) (f g : Fabric) : Prop where
  laneCfg : ∀ i' l, ¬ch.hasLane i i' l → g.laneCfg i' l = f.laneCfg i' l
  rxf     : ∀ i' l, ¬ch.hasLane i i' l → Table.get g.rxf (key i' l) = Table.get f.rxf (key i' l)
  txf     : ∀ i' l, ¬ch.hasLane i i' l → Table.get g.txf (key i' l) = Table.get f.txf (key i' l)
  funcsel : ∀ p, ch.pin ≠ .gpio p → Table.get g.funcsel p = Table.get f.funcsel p
  pull    : ∀ p, ch.pin ≠ .gpio p → Table.get g.pull p = Table.get f.pull p
  pindir  : ∀ i' p, ¬ch.hasPin i i' p → Table.get g.pindir (key i' p) = Table.get f.pindir (key i' p)
  pinout  : ∀ i' p, ¬ch.hasPin i i' p → Table.get g.pinout (key i' p) = Table.get f.pinout (key i' p)
  pm      : ∀ i' j, Table.get g.pm (key i' j) = Table.get f.pm (key i' j)
    ∨ (i' = i ∧ Table.get f.pm (key i' j) = none ∧ ch.pin ≠ .unset
        ∧ ∃ b k, Table.get g.pm (key i' j) = some (.code prog b k))

/-- The write is to the lane, the FIFOs or the pin of the channel on coprocessor `i`; no write of a slot is. -/
def FabricWrite.ofChannel (ch : Channel) (i : Nat) : FabricWrite → Prop
  | .lane i' l _ => ch.hasLane i i' l
  | .clearFifos i' l => ch.hasLane i i' l
  | .funcsel p _ => ch.pin = .gpio p
  | .pull p _ => ch.pin = .gpio p
  | .pindir i' p _ => ch.hasPin i i' p
  | .pinout i' p _ => ch.hasPin i i' p
  | .slot _ _ _ => False

namespace ChannelFrame

variable {ch : Channel} {prog : Program} {i : Nat} {f g g' : Fabric}

theorem refl (ch : Channel) (prog : Program) (i : Nat) (f : Fabric) : ChannelFrame ch prog i f f where
  laneCfg _ _ _ := rfl
  rxf _ _ _ := rfl
  txf _ _ _ := rfl
  funcsel _ _ := rfl
  pull _ _ := rfl
  pindir _ _ _ := rfl
  pinout _ _ _ := rfl
  pm _ _ := .inl rfl

theorem trans (hg : ChannelFrame ch prog i f g) (hg' : ChannelFrame ch prog i g g') :
    ChannelFrame ch prog i f g' where
  laneCfg i' l hn := (hg'.laneCfg i' l hn).trans (hg.laneCfg i' l hn)
  rxf i' l hn := (hg'.rxf i' l hn).trans (hg.rxf i' l hn)
  txf i' l hn := (hg'.txf i' l hn).trans (hg.txf i' l hn)
  funcsel p hn := (hg'.funcsel p hn).trans (hg.funcsel p hn)
  pull p hn := (hg'.pull p hn).trans (hg.pull p hn)
  pindir i' p hn := (hg'.pindir i' p hn).trans (hg.pindir i' p hn)
  pinout i' p hn := (hg'.pinout i' p hn).trans (hg.pinout i' p hn)
  pm i' j := by
    rcases hg'.pm i' j with e | ⟨hi, hfree, hset, hcode⟩
    · rw [e]; exact hg.pm i' j
    · rcases hg.pm i' j with e | ⟨-, -, -, b, k, hused⟩
      · exact .inr ⟨hi, e ▸ hfree, hset, hcode⟩
      · cases hused.symm.trans hfree

/-- One of the channel's own writes stays in its frame. -/
theorem apply (f : Fabric) {w : FabricWrite} (hw : w.ofChannel ch i) : ChannelFrame ch prog i f (f.apply w) := by
  have hf := refl ch prog i f
  cases w with
  | lane i₀ l₀ v =>
    refine { hf with laneCfg := fun i' l hn => ?_ }
    rw [Fabric.apply_lane_laneCfg, if_neg]
    rintro ⟨rfl, rfl⟩
    exact hn hw
  | clearFifos i₀ l₀ =>
    have hne : ∀ i' l, ¬ch.hasLane i i' l → key i₀ l₀ ≠ key i' l := by
      intro i' l hn hk
      obtain ⟨rfl, rfl⟩ := (key_inj ..).1 hk
      exact hn hw
    exact { hf with
      rxf := fun i' l hn => Table.get_set_ne _ _ (hne i' l hn)
      txf := fun i' l hn => Table.get_set_ne _ _ (hne i' l hn) }
  | funcsel p₀ i₀ => exact { hf with funcsel := fun p hn => Table.get_set_ne _ _ fun hp => hn (hp ▸ hw) }
  | pull p₀ v => exact { hf with pull := fun p hn => Table.get_set_ne _ _ fun hp => hn (hp ▸ hw) }
  | pindir i₀ p₀ v =>
    refine { hf with pindir := fun i' p hn => Table.get_set_ne _ _ fun hk => ?_ }
    obtain ⟨rfl, rfl⟩ := (key_inj ..).1 hk
    exact hn hw
  | pinout i₀ p₀ v =>
    refine { hf with pinout := fun i' p hn => Table.get_set_ne _ _ fun hk => ?_ }
    obtain ⟨rfl, rfl⟩ := (key_inj ..).1 hk
    exact hn hw
  | slot i₀ o v => exact hw.elim

theorem applyAll : ∀ (ws : List FabricWrite) (f : Fabric), (∀ w ∈ ws, w.ofChannel ch i) →
    ChannelFrame ch prog i f (f.applyAll ws)
  | [], f, _ => refl ch prog i f
  | w :: ws, f, hws =>
    (apply f (hws w List.mem_cons_self)).trans (applyAll ws _ fun w' hw' => hws w' (List.mem_cons_of_mem w hw'))

/-- The load of a program where it fits stays in the frame of a channel with a pin (R61). -/
theorem load {size o n : Nat} (hset : ch.pin ≠ .unset) (ho : o ∈ fits f.pm size i n) :
    ChannelFrame ch prog i f (f.applyAll (slotWrites i prog o n)) := by
  have hpm : ∀ i' j, Table.get (f.applyAll (slotWrites i prog o n)).pm (key i' j) = Table.get f.pm (key i' j)
      ∨ (i' = i ∧ Table.get f.pm (key i' j) = none ∧ ch.pin ≠ .unset
          ∧ ∃ b k, Table.get (f.applyAll (slotWrites i prog o n)).pm (key i' j) = some (.code prog b k)) := by
    intro i' j
    rw [Fabric.applyAll_slotWrites_pm]
    split
    · next hin =>
      obtain ⟨rfl, hlo, hhi⟩ := hin
      have hfree := ((mem_fits ..).1 ho).2 (j - o) (by omega)
      rw [Nat.add_sub_cancel' hlo] at hfree
      exact .inr ⟨rfl, hfree, hset, o, j - o, rfl⟩
    · exact .inl rfl
  rw [Fabric.applyAll_slotWrites]
  exact { refl ch prog i f with pm := hpm }

end ChannelFrame

theorem rxPinWrites_ofChannel {ch : Channel} {p : Nat} (hp : ch.pin = .gpio p) (i : Nat) :
    ∀ w ∈ rxPinWrites i p, w.ofChannel ch i := by
  simp [rxPinWrites, FabricWrite.ofChannel, Channel.hasPin, hp]

theorem txPinWrites_ofChannel {ch : Channel} {p : Nat} (hp : ch.pin = .gpio p) (i : Nat) :
    ∀ w ∈ txPinWrites i p, w.ofChannel ch i := by
  simp [txPinWrites, FabricWrite.ofChannel, Channel.hasPin, hp]

theorem rxLaneWrites_ofChannel {ch : Channel} {p : Nat} (hp : ch.pin = .gpio p) (i o : Nat) (c : ClkDiv) :
    ∀ w ∈ rxLaneWrites i p ch.lane o c, w.ofChannel ch i := by
  simp [rxLaneWrites, FabricWrite.ofChannel, Channel.hasLane, hp]

theorem txLaneWrites_ofChannel {ch : Channel} {p : Nat} (hp : ch.pin = .gpio p) (i o : Nat) (c : ClkDiv) :
    ∀ w ∈ txLaneWrites i p ch.lane o c, w.ofChannel ch i := by
  simp [txLaneWrites, FabricWrite.ofChannel, Channel.hasLane, hp]

theorem RxDone.channelFrame {d : DivResult} {c : ClkDiv} (h : RxDone d c s t) :
    ChannelFrame s.rx .rx s.inst s.fabric t.fabric := by
  rcases h with ⟨-, rfl⟩ | ⟨p, o, hp, ho, rfl⟩
  · exact .refl ..
  · have hset : s.rx.pin ≠ .unset := by simp [hp]
    exact ((ChannelFrame.applyAll _ _ (rxPinWrites_ofChannel hp _)).trans (.load hset ho)).trans
      (.applyAll _ _ (rxLaneWrites_ofChannel hp _ o c))

theorem TxDone.channelFrame {d : DivResult} {c : ClkDiv} (h : TxDone d c s t) :
    ChannelFrame s.tx .tx s.inst s.fabric t.fabric := by
  rcases h with ⟨-, rfl⟩ | ⟨p, o, hp, ho, rfl⟩
  · exact .refl ..
  · have hset : s.tx.pin ≠ .unset := by simp [hp]
    exact ((ChannelFrame.applyAll _ _ (txPinWrites_ofChannel hp _)).trans (.load hset ho)).trans
      (.applyAll _ _ (txLaneWrites_ofChannel hp _ o c))

/-! ### An enabled lane and its pin stay as configured (R36, R146, R147) -/

/-- The RX channel, where enabled, is configured, with the `CLKDIV` value `c`. -/
def State.rxConfiguredWith (s : State) (c : ClkDiv) : Prop :=
  s.rxConfigured ∧ (s.rx.enabled = true → (s.fabric.laneCfg s.inst s.rx.lane).clkdiv = some c)

/-- The TX channel, where enabled, is configured, with the `CLKDIV` value `c`. -/
def State.txConfiguredWith (s : State) (c : ClkDiv) : Prop :=
  s.txConfigured ∧ (s.tx.enabled = true → (s.fabric.laneCfg s.inst s.tx.lane).clkdiv = some c)

theorem State.rxConfigured_of_disabled (h : s.rx.enabled = false) : s.rxConfigured := by
  unfold State.rxConfigured
  split <;> simp [h]

theorem State.txConfigured_of_disabled (h : s.tx.enabled = false) : s.txConfigured := by
  unfold State.txConfigured
  split <;> simp [h]

theorem State.rxConfiguredWith_of_disabled {c : ClkDiv} (h : s.rx.enabled = false) : s.rxConfiguredWith c :=
  ⟨State.rxConfigured_of_disabled h, by simp [h]⟩

theorem State.txConfiguredWith_of_disabled {c : ClkDiv} (h : s.tx.enabled = false) : s.txConfiguredWith c :=
  ⟨State.txConfigured_of_disabled h, by simp [h]⟩

theorem State.rxConfigured.exists_pin (h : s.rxConfigured) (he : s.rx.enabled = true) : ∃ p, s.rx.pin = .gpio p := by
  cases hp : s.rx.pin with
  | unset => simp [State.rxConfigured, hp, he] at h
  | gpio p => exact ⟨p, rfl⟩

theorem State.txConfigured.exists_pin (h : s.txConfigured) (he : s.tx.enabled = true) : ∃ p, s.tx.pin = .gpio p := by
  cases hp : s.tx.pin with
  | unset => simp [State.txConfigured, hp, he] at h
  | gpio p => exact ⟨p, rfl⟩

/-- Without a pin conflict, TX is not on the pin of RX (R141). -/
theorem State.tx_pin_ne_of_pinConflict_eq_none {p : Nat} (h : s.pinConflict = none) (hr : s.rx.pin = .gpio p) :
    s.tx.pin ≠ .gpio p := by
  intro ht
  simp [State.pinConflict, hr, ht] at h

theorem RxDone.rxConfiguredWith {d : DivResult} {c : ClkDiv} (h : RxDone d c s t) (hs : s.rx.enabled = false) :
    t.rxConfiguredWith c := by
  rcases h with ⟨-, rfl⟩ | ⟨p, o, hp, -, rfl⟩
  · exact State.rxConfiguredWith_of_disabled hs
  · simp [State.rxConfiguredWith, State.rxConfigured, hp, rxFabric_laneCfg]

theorem TxDone.txConfiguredWith {d : DivResult} {c : ClkDiv} (h : TxDone d c s t) (hs : s.tx.enabled = false) :
    t.txConfiguredWith c := by
  rcases h with ⟨-, rfl⟩ | ⟨p, o, hp, -, rfl⟩
  · exact State.txConfiguredWith_of_disabled hs
  · simp [State.txConfiguredWith, State.txConfigured, hp, txFabric_laneCfg]

/-- Writes in the frame of a TX channel without conflict leave a configured RX channel configured. -/
theorem State.rxConfiguredWith.of_txFrame {c : ClkDiv} {prog : Program} {g : Fabric} (h : s.rxConfiguredWith c)
    (hp : s.pinConflict = none) (hl : s.laneConflict = none) (hg : ChannelFrame s.tx prog s.inst s.fabric g) :
    State.rxConfiguredWith { s with fabric := g } c := by
  cases he : s.rx.enabled with
  | false => exact State.rxConfiguredWith_of_disabled he
  | true =>
    obtain ⟨hcfg, hclk⟩ := h
    obtain ⟨p, hr⟩ := hcfg.exists_pin he
    have hpin := State.tx_pin_ne_of_pinConflict_eq_none hp hr
    have hlane : g.laneCfg s.inst s.rx.lane = s.fabric.laneCfg s.inst s.rx.lane := by
      refine hg.laneCfg _ _ fun ⟨hset, heq⟩ => ?_
      cases ht : s.tx.pin with
      | unset => exact hset ht
      | gpio q => exact State.lane_ne_of_laneConflict_eq_none hl hr ht (Prod.ext_iff.1 heq).2
    simpa only [State.rxConfiguredWith, State.rxConfigured, hr, hlane, hg.funcsel p hpin, hg.pull p hpin,
      hg.pindir s.inst p fun hn => hpin hn.2] using And.intro hcfg hclk

/-- What START has configured with one `CLKDIV`, on pins and lanes without conflict, meets the invariant once a START has
succeeded or a fault stands. -/
theorem State.configuredInv_of_configuredWith {c : ClkDiv} (hr : s.rxConfiguredWith c) (ht : s.txConfiguredWith c)
    (hc : ∀ n f, s.div = some (.inRange n f) → c = ⟨n, f⟩) (hp : s.pinConflict = none) (hl : s.laneConflict = none)
    (hs : s.fault ≠ none ∨ s.started = true) : s.configuredInv := by
  obtain ⟨hrc, hrk⟩ := hr
  obtain ⟨htc, htk⟩ := ht
  refine ⟨hrc, htc, ⟨fun he n f hd => hc n f hd ▸ hrk he, fun he n f hd => hc n f hd ▸ htk he,
    fun he he' => (hrk he).trans (htk he').symm⟩, fun he he' => ?_, fun hf hn => ?_⟩
  · obtain ⟨p, hrp⟩ := hrc.exists_pin he
    obtain ⟨q, htq⟩ := htc.exists_pin he'
    exact ⟨State.lane_ne_of_laneConflict_eq_none hl hrp htq,
      hrp ▸ (State.tx_pin_ne_of_pinConflict_eq_none hp hrp).symm⟩
  · rcases hs with hs | hs
    · exact absurd hf hs
    · simp [hn] at hs

theorem SameRecord.pinConflict_eq (h : SameRecord s t) : t.pinConflict = s.pinConflict := by
  simp only [State.pinConflict, h.rxPin, h.txPin]

theorem SameRecord.laneConflict_eq (h : SameRecord s t) : t.laneConflict = s.laneConflict := by
  simp only [State.laneConflict, h.rxPin, h.txPin, h.rxLane, h.txLane]

theorem TxDone.div_eq {d : DivResult} {c : ClkDiv} (h : TxDone d c s t) : t.div = s.div := by
  rcases h with ⟨-, rfl⟩ | ⟨p, o, -, -, rfl⟩ <;> rfl

/-- A divisor in range is itself the `CLKDIV` (R36). -/
theorem clkDivOf_eq_of_inRange {d : DivResult} {n : BitVec 16} {f : BitVec 8} (s : State) (h : d = .inRange n f) :
    clkDivOf d s = ⟨n, f⟩ := by
  subst h; rfl

theorem State.configuredInv.startChannels (h : s.configuredInv) (hf : s.fault = none) (hs : s.started = false)
    (hp : s.pinConflict = none) (hl : s.laneConflict = none) (baud : Word) : (startChannels baud s).configuredInv := by
  obtain ⟨-, -, -, -, hoff⟩ := h
  obtain ⟨hr, ht⟩ := hoff hf hs
  have hc : ∀ u : State, u.div = some (s.divFor baud) → ∀ n f, u.div = some (.inRange n f) →
      clkDivOf (s.divFor baud) s = ⟨n, f⟩ :=
    fun u hu n f hd => clkDivOf_eq_of_inRange s (Option.some.inj (hu.symm.trans hd))
  rcases startChannels_cases baud s with ⟨p, -, -, e⟩ | ⟨s2, h2, h⟩
  · rw [e]
    exact State.configuredInv_of_configuredWith (State.rxConfiguredWith_of_disabled hr)
      (State.txConfiguredWith_of_disabled ht) (hc _ rfl) hp hl (.inl nofun)
  · have hp2 : s2.pinConflict = none := h2.sameRecord.pinConflict_eq.trans hp
    have hl2 : s2.laneConflict = none := h2.sameRecord.laneConflict_eq.trans hl
    have hr2 := h2.rxConfiguredWith hr
    have ht2 : s2.tx.enabled = false := h2.tx_eq ▸ ht
    obtain ⟨q, hq, -, e⟩ | ⟨s3, h3, e⟩ := h <;> rw [e]
    · have hframe := ChannelFrame.applyAll (prog := .tx) _ s2.fabric (txPinWrites_ofChannel hq s2.inst)
      exact State.configuredInv_of_configuredWith (hr2.of_txFrame hp2 hl2 hframe)
        (State.txConfiguredWith_of_disabled ht2) (hc _ h2.div_eq) hp2 hl2 (.inl nofun)
    · have hr3 : s3.rxConfiguredWith (clkDivOf (s.divFor baud) s) := by
        have hkept := hr2.of_txFrame hp2 hl2 h3.channelFrame
        simpa only [State.rxConfiguredWith, State.rxConfigured, h3.rx_eq, h3.sameRecord.inst] using hkept
      exact State.configuredInv_of_configuredWith (s := s3.markStarted.respond respZero) hr3 (h3.txConfiguredWith ht2)
        (hc _ (h3.div_eq.trans h2.div_eq)) (h3.sameRecord.pinConflict_eq.trans hp2)
        (h3.sameRecord.laneConflict_eq.trans hl2) (.inr rfl)

/-- A fault may be raised, since the invariant asks less of a faulted state. -/
theorem State.configuredInv.setFault (h : s.configuredInv) (hf : s.fault = none) (fault : Option FaultCode) :
    State.configuredInv { s with fault := fault } := by
  obtain ⟨hr, ht, hc, hne, hoff⟩ := h
  exact ⟨hr, ht, hc, hne, fun _ hs => hoff hf hs⟩

/-- CONFIG rewrites a record that no channel is configured from (R140). -/
theorem State.configuredInv.record (h : s.configuredInv) (hf : s.fault = none) (hs : s.started = false)
    (txPin rxPin : Pin) (rxLane txLane inst : Nat) :
    State.configuredInv { s with
      rx := { s.rx with pin := rxPin, lane := rxLane }, tx := { s.tx with pin := txPin, lane := txLane }, inst := inst } := by
  obtain ⟨-, -, -, -, hoff⟩ := h
  obtain ⟨hr, ht⟩ := hoff hf hs
  exact ⟨State.rxConfigured_of_disabled hr, State.txConfigured_of_disabled ht, by simp [State.clkdivInv, hr, ht],
    by simp [hr], fun _ _ => ⟨hr, ht⟩⟩

theorem execStart_configuredInv {frame : BitVec 16} {baud : Word} (hf : s.fault = none) (hs : s.configuredInv)
    (h : execStart frame baud s = .next t) : t.configuredInv := by
  rcases execStart_cases frame baud s with
    ⟨-, hx⟩ | ⟨-, -, hx⟩ | ⟨-, -, p, -, hx⟩ | ⟨-, -, -, l, -, hx⟩ | ⟨hn, -, hp, hl, hx⟩ <;> cases hx.symm.trans h
  case inr.inr.inr.inr => exact hs.startChannels hf hn hp hl baud
  all_goals exact hs.setFault hf _

theorem execConfig_configuredInv {a b : Pin} {c d e : Nat} (hf : s.fault = none) (hs : s.configuredInv)
    (h : execConfig a b c d e s = .next t) : t.configuredInv := by
  rcases execConfig_cases a b c d e s with ⟨f, hx⟩ | ⟨hn, -, hx⟩ <;> cases hx.symm.trans h
  · exact hs.setFault hf _
  · exact hs.record hf hn a b c d e

theorem exec_configuredInv {i : Instr} (hf : s.fault = none) (hs : s.configuredInv) (h : exec i s = .next t) :
    t.configuredInv := by
  cases i with
  | config a b c d e => exact execConfig_configuredInv hf hs h
  | start frame baud => exact execStart_configuredInv hf hs h
  | _ =>
    obtain ⟨rxf, txf, peek, fault, port, resp, rfl⟩ := exec_frame h nofun nofun
    exact hs.setFault hf fault

/-- Settles O56: only START writes a lane or a pin, on channels without conflict, and TX, configured second, stays in its own
frame. -/
theorem stepKeepsConfiguration : Obligations.StepKeepsConfiguration := by
  intro s t hs h
  refine step_keeps (P := State.configuredInv) (fun _ _ _ _ _ h => h) (fun _ c hf h => h.setFault hf (some c))
    (fun _ _ _ hf h hx => exec_configuredInv hf h hx) (fun line low s h => ?_) (fun s h => ?_) h hs
  · obtain ⟨rxf, n, e⟩ := rxPush_frame line low s
    rw [e]; exact h
  · rcases txPop_cases s with ⟨-, e⟩ | ⟨w, q, -, -, e⟩ <;> rw [e] <;> exact h

/-! ### What START touches (R153, R154) -/

/-- START, even where it faults, writes within the frame of RX, and then within the frame of TX. -/
theorem startChannels_frames (baud : Word) (s : State) : ∃ g, ChannelFrame s.rx .rx s.inst s.fabric g
    ∧ ChannelFrame s.tx .tx s.inst g (startChannels baud s).fabric := by
  rcases startChannels_cases baud s with ⟨p, hp, -, e⟩ | ⟨s2, h2, h⟩
  · rw [e]
    exact ⟨_, .applyAll _ _ (rxPinWrites_ofChannel hp _), .refl ..⟩
  · refine ⟨s2.fabric, h2.channelFrame, ?_⟩
    have hinst : s2.inst = s.inst := h2.sameRecord.inst
    have htx : s2.tx = s.tx := h2.tx_eq
    rw [← htx, ← hinst]
    obtain ⟨q, hq, -, e⟩ | ⟨s3, h3, e⟩ := h <;> rw [e]
    · exact .applyAll _ _ (txPinWrites_ofChannel hq _)
    · exact h3.channelFrame

theorem exec_start_frames {frame : BitVec 16} {baud : Word} (h : exec (.start frame baud) s = .next t) :
    ∃ g, ChannelFrame s.rx .rx s.inst s.fabric g ∧ ChannelFrame s.tx .tx s.inst g t.fabric := by
  rcases execStart_cases frame baud s with
    ⟨-, hx⟩ | ⟨-, -, hx⟩ | ⟨-, -, p, -, hx⟩ | ⟨-, -, -, l, -, hx⟩ | ⟨-, -, -, -, hx⟩ <;> cases hx.symm.trans h
  case inr.inr.inr.inr => exact startChannels_frames baud s
  all_goals exact ⟨s.fabric, .refl .., .refl ..⟩

/-- Settles O24: outside the frames of both channels nothing changes, and a slot that the RX load used is not free for TX. -/
theorem startTouchesOnlySetChannels : Obligations.StartTouchesOnlySetChannels := by
  intro frame baud s u h
  obtain ⟨g, hr, ht⟩ := exec_start_frames h
  refine ⟨fun i l hnr hnt => ?_, fun p hnr hnt => ?_, fun i p hn => ?_, fun i o hi => ?_, fun o hne => ?_⟩
  · exact ⟨(ht.laneCfg i l hnt).trans (hr.laneCfg i l hnr), (ht.rxf i l hnt).trans (hr.rxf i l hnr),
      (ht.txf i l hnt).trans (hr.txf i l hnr)⟩
  · exact ⟨(ht.funcsel p hnt).trans (hr.funcsel p hnr), (ht.pull p hnt).trans (hr.pull p hnr)⟩
  · have hnr : ¬s.rx.hasPin s.inst i p := fun hin => hn ⟨hin.1, .inl hin.2⟩
    have hnt : ¬s.tx.hasPin s.inst i p := fun hin => hn ⟨hin.1, .inr hin.2⟩
    exact ⟨(ht.pindir i p hnt).trans (hr.pindir i p hnr), (ht.pinout i p hnt).trans (hr.pinout i p hnr)⟩
  · obtain et | ⟨hi', -⟩ := ht.pm i o
    · obtain er | ⟨hi', -⟩ := hr.pm i o
      · exact et.trans er
      · exact absurd hi' hi
    · exact absurd hi' hi
  · obtain et | ⟨-, htfree, htset, htcode⟩ := ht.pm s.inst o <;>
      obtain er | ⟨-, hrfree, hrset, b, k, hrcode⟩ := hr.pm s.inst o
    · exact absurd (et.trans er) hne
    · exact ⟨hrfree, .inl ⟨hrset, b, k, et.trans hrcode⟩⟩
    · exact ⟨er ▸ htfree, .inr ⟨htset, htcode⟩⟩
    · cases hrcode.symm.trans htfree

/-! ### What START configures (R141, R143, R145) -/

theorem RxDone.eq_of_unset {d : DivResult} {c : ClkDiv} (h : RxDone d c s t) (hp : s.rx.pin = .unset) : t = s := by
  rcases h with ⟨-, e⟩ | ⟨p, o, hp', -, -⟩
  · exact e
  · cases hp.symm.trans hp'

theorem TxDone.eq_of_unset {d : DivResult} {c : ClkDiv} (h : TxDone d c s t) (hp : s.tx.pin = .unset) : t = s := by
  rcases h with ⟨-, e⟩ | ⟨p, o, hp', -, -⟩
  · exact e
  · cases hp.symm.trans hp'

theorem RxDone.exists_offset {d : DivResult} {c : ClkDiv} {p : Nat} (h : RxDone d c s t) (hp : s.rx.pin = .gpio p) :
    ∃ o ∈ fits s.fabric.pm s.launch.progMemSize s.inst s.launch.rxProgLen, t = { s with
      fabric := rxFabric s.fabric s.inst p s.rx.lane o s.launch.rxProgLen c
      rx := { s.rx with offset := some o, divisor := some d, enabled := true }
      draws := s.draws + 1 } := by
  rcases h with ⟨hu, -⟩ | ⟨p', o, hp', ho, e⟩
  · cases hp.symm.trans hu
  · cases hp.symm.trans hp'
    exact ⟨o, ho, e⟩

theorem TxDone.exists_offset {d : DivResult} {c : ClkDiv} {p : Nat} (h : TxDone d c s t) (hp : s.tx.pin = .gpio p) :
    ∃ o ∈ fits s.fabric.pm s.launch.progMemSize s.inst s.launch.txProgLen, t = { s with
      fabric := txFabric s.fabric s.inst p s.tx.lane o s.launch.txProgLen c
      tx := { s.tx with offset := some o, divisor := some d, enabled := true }
      draws := s.draws + 1 } := by
  rcases h with ⟨hu, -⟩ | ⟨p', o, hp', ho, e⟩
  · cases hp.symm.trans hu
  · cases hp.symm.trans hp'
    exact ⟨o, ho, e⟩

/-- START with its checks passed, and with room for each program it loads, configures RX and then TX and answers 0 (R141, R156). -/
theorem exec_start_of_room (frame : BitVec 16) {baud : Word} (hs : s.started = false) (hb : baud ≠ 0#32)
    (hp : s.pinConflict = none) (hl : s.laneConflict = none)
    (hrx : ∀ r, s.rx.pin = .gpio r → fits s.fabric.pm s.launch.progMemSize s.inst s.launch.rxProgLen ≠ [])
    (htx : ∀ q s2, s.tx.pin = .gpio q →
      RxDone (s.divFor baud) (clkDivOf (s.divFor baud) s) (s.latchDiv (s.divFor baud)) s2 →
      fits s2.fabric.pm s.launch.progMemSize s.inst s.launch.txProgLen ≠ []) :
    ∃ s2 s3, RxDone (s.divFor baud) (clkDivOf (s.divFor baud) s) (s.latchDiv (s.divFor baud)) s2
      ∧ TxDone (s.divFor baud) (clkDivOf (s.divFor baud) s) s2 s3
      ∧ exec (.start frame baud) s = .next (s3.markStarted.respond respZero) := by
  rw [exec_start_of_checks frame hs hb hp hl]
  rcases startChannels_cases baud s with ⟨r, hr, hno, -⟩ | ⟨s2, h2, ⟨q, hq, hno, -⟩ | ⟨s3, h3, e⟩⟩
  · exact absurd hno (hrx r hr)
  · rw [h2.sameRecord.launch, h2.sameRecord.inst] at hno
    exact absurd hno (htx q s2 (h2.tx_eq ▸ hq) h2)
  · exact ⟨s2, s3, h2, h3, congrArg _ e⟩

/-- With a pin UNSET there is no conflict (R141). -/
theorem State.conflicts_eq_none_of_unset (h : s.rx.pin = .unset ∨ s.tx.pin = .unset) :
    s.pinConflict = none ∧ s.laneConflict = none := by
  rcases h with h | h <;> cases hr : s.rx.pin <;> simp_all [State.pinConflict, State.laneConflict]

/-- With different pins on different lanes there is no conflict (R141). -/
theorem State.conflicts_eq_none_of_ne {r q : Nat} (hr : s.rx.pin = .gpio r) (hq : s.tx.pin = .gpio q) (hpin : r ≠ q)
    (hlane : s.rx.lane ≠ s.tx.lane) : s.pinConflict = none ∧ s.laneConflict = none := by
  simp [State.pinConflict, State.laneConflict, hr, hq, hpin, hlane]

/-- Settles O18: no pin is set, so neither channel is configured. -/
theorem startWithNoPinOnlyLatches : Obligations.StartWithNoPinOnlyLatches := by
  intro frame baud s hs hb hr hq
  obtain ⟨hp, hl⟩ := State.conflicts_eq_none_of_unset (.inl hr)
  obtain ⟨s2, s3, h2, h3, e⟩ := exec_start_of_room frame hs hb hp hl (by simp [hr]) (by simp [hq])
  cases h2.eq_of_unset hr
  cases h3.eq_of_unset hq
  exact ⟨_, e⟩

/-- Settles O19: RX is configured at a fitting offset, and the unset TX is skipped. -/
theorem startConfiguresRx : Obligations.StartConfiguresRx := by
  intro frame baud s p hs hb hr hq hroom d
  obtain ⟨hp, hl⟩ := State.conflicts_eq_none_of_unset (.inr hq)
  obtain ⟨s2, s3, h2, h3, e⟩ := exec_start_of_room frame hs hb hp hl (fun _ _ => hroom) (by simp [hq])
  obtain ⟨o, ho, rfl⟩ := h2.exists_offset hr
  cases h3.eq_of_unset hq
  exact ⟨o, _, _, _, ho, fun n fr hd => clkDivOf_eq_of_inRange s hd, rxFabric_written .., e⟩

/-- Settles O20: the unset RX is skipped, and TX is configured at a fitting offset. -/
theorem startConfiguresTx : Obligations.StartConfiguresTx := by
  intro frame baud s p hs hb hr hq hroom d
  obtain ⟨hp, hl⟩ := State.conflicts_eq_none_of_unset (.inl hr)
  obtain ⟨s2, s3, h2, h3, e⟩ := exec_start_of_room frame hs hb hp hl (by simp [hr]) fun _ s2 _ h2 => by
    cases h2.eq_of_unset hr
    exact hroom
  cases h2.eq_of_unset hr
  obtain ⟨o, ho, rfl⟩ := h3.exists_offset hq
  exact ⟨o, _, _, _, ho, fun n fr hd => clkDivOf_eq_of_inRange s hd, txFabric_written .., e⟩

/-- Settles O21: RX is configured, and TX has room in program memory with the RX program loaded. -/
theorem startConfiguresRxThenTx : Obligations.StartConfiguresRxThenTx := by
  intro frame baud s r q hs hb hr hq hpin hlane hroom hroom' d
  obtain ⟨hp, hl⟩ := State.conflicts_eq_none_of_ne hr hq hpin hlane
  obtain ⟨s2, s3, h2, h3, e⟩ := exec_start_of_room frame hs hb hp hl (fun _ _ => hroom) fun _ s2 _ h2 => by
    obtain ⟨o, ho, rfl⟩ := h2.exists_offset hr
    exact (rxFabric_pm_eq ..).symm ▸ hroom' o ho
  obtain ⟨o, ho, rfl⟩ := h2.exists_offset hr
  obtain ⟨o', ho', rfl⟩ := h3.exists_offset hq
  exact ⟨o, o', _, _, _, _, ho, ho', fun n fr hd => clkDivOf_eq_of_inRange s hd, rxFabric_written ..,
    txFabric_written .., e⟩

/-! ### The checks of CONFIG and START (R140 to R142) -/

theorem pinLegal_iff (npins : Nat) (pin : Pin) : pinLegal npins pin = true ↔ ∀ n, pin = .gpio n → n < npins := by
  cases pin <;> simp [pinLegal]

theorem configLegal_iff (l : Launch) (txPin rxPin : Pin) (rxLane txLane inst : Nat) :
    configLegal l txPin rxPin rxLane txLane inst = true
      ↔ (∀ n, txPin = .gpio n → n < l.npins) ∧ (∀ n, rxPin = .gpio n → n < l.npins)
        ∧ rxLane < 4 ∧ txLane < 4 ∧ inst < l.ninst := by
  simp only [configLegal, Bool.and_eq_true, pinLegal_iff, decide_eq_true_eq, and_assoc]
  rfl

/-- Settles O15: the operands pass the check. -/
theorem configRecordsOperands : Obligations.ConfigRecordsOperands := by
  intro txPin rxPin rxLane txLane inst s hs htx hrx hrl htl hi
  have hlegal := (configLegal_iff s.launch ..).2 ⟨htx, hrx, hrl, htl, hi⟩
  simp [exec, execConfig, hs, hlegal, State.respond, respZero]

/-- Settles O16: the check of `started` comes first, and an operand out of range fails the check of the operands. -/
theorem configFaults : Obligations.ConfigFaults := by
  intro txPin rxPin rxLane txLane inst s i
  refine ⟨fun hs => by simp [i, exec, execConfig, hs, State.raise], fun hs hbad => ?_⟩
  have hillegal : configLegal s.launch txPin rxPin rxLane txLane inst = false := by
    refine Bool.eq_false_iff.2 fun hlegal => ?_
    obtain ⟨htx, hrx, hrl, htl, hi⟩ := (configLegal_iff ..).1 hlegal
    rcases hbad with ⟨n, hn, hge⟩ | ⟨n, hn, hge⟩ | hge | hge | hge
    · exact absurd (htx n hn) (Nat.not_lt.2 hge)
    · exact absurd (hrx n hn) (Nat.not_lt.2 hge)
    · omega
    · omega
    · omega
  simp [i, exec, execConfig, hs, hillegal, State.raise]

theorem exec_start_of_started (frame : BitVec 16) (baud : Word) (hs : s.started = true) :
    exec (.start frame baud) s = .next (s.raise (.restart (encode (.start frame baud)))) := by
  simp [exec, execStart, hs]

theorem exec_start_zero (frame : BitVec 16) (hs : s.started = false) :
    exec (.start frame 0#32) s = .next (s.raise (.baudZero (encode (.start frame 0#32)))) := by
  simp [exec, execStart, hs]

theorem exec_start_of_pinConflict (frame : BitVec 16) {baud : Word} {p : Nat} (hs : s.started = false)
    (hb : baud ≠ 0#32) (hp : s.pinConflict = some p) :
    exec (.start frame baud) s = .next (s.raise (.pinConflict p)) := by
  simp [exec, execStart, hs, hb, hp]

theorem exec_start_of_laneConflict (frame : BitVec 16) {baud : Word} {l : Nat} (hs : s.started = false)
    (hb : baud ≠ 0#32) (hp : s.pinConflict = none) (hl : s.laneConflict = some l) :
    exec (.start frame baud) s = .next (s.raise (.laneConflict l)) := by
  simp [exec, execStart, hs, hb, hp, hl]

/-- Past its first two checks START does not name FRAME (R142). -/
theorem exec_start_frame_irrel (frame frame' : BitVec 16) {baud : Word} (hs : s.started = false) (hb : baud ≠ 0#32) :
    exec (.start frame baud) s = exec (.start frame' baud) s := by
  simp [exec, execStart, hs, hb]

/-- Settles O17: each check is passed before the next one. -/
theorem startFaultsInOrder : Obligations.StartFaultsInOrder := by
  intro frame baud s i
  refine ⟨exec_start_of_started frame baud, fun hs hb => ?_, fun hs hb p hr hq => ?_,
    fun hs hb r q hr hq hpin hlane => ?_⟩
  · subst hb
    exact exec_start_zero frame hs
  · exact exec_start_of_pinConflict frame hs hb (by simp [State.pinConflict, hr, hq])
  · exact exec_start_of_laneConflict frame hs hb (by simp [State.pinConflict, hr, hq, hpin])
      (by simp [State.laneConflict, hr, hq, hlane])

/-- Faults of one code leave states that differ in what the fault records alone. -/
theorem State.raise_agree (s : State) {c c' : FaultCode} (h : c.number = c'.number) :
    { s.raise c with fault := none } = { s.raise c' with fault := none }
      ∧ (s.raise c).fault.map FaultCode.number = (s.raise c').fault.map FaultCode.number :=
  ⟨rfl, congrArg some h⟩

/-- Settles O23: the first two checks record the command word, and what comes after them does not name FRAME. -/
theorem frameIsIgnored : Obligations.FrameIsIgnored := by
  intro frame frame' baud s
  refine ⟨fun hs hb => exec_start_frame_irrel frame frame' hs hb, ?_⟩
  cases hs : s.started with
  | true => exact ⟨_, _, exec_start_of_started frame baud hs, exec_start_of_started frame' baud hs,
      s.raise_agree (by simp only [FaultCode.number])⟩
  | false =>
    by_cases hb : baud = 0#32
    · subst hb
      exact ⟨_, _, exec_start_zero frame hs, exec_start_zero frame' hs,
        s.raise_agree (by simp only [FaultCode.number])⟩
    · obtain ⟨u, hu⟩ := exec_answers_next (.start frame baud) s
      exact ⟨u, u, hu, (exec_start_frame_irrel frame' frame hs hb).trans hu, rfl, rfl⟩

/-! ### STOP, END, FLUSH, READY and GETCHAN (R150 to R152, R186, R187) -/

/-- Settles O28: each of the four answers its constant by `respond`, and does no more. -/
theorem constantCommandsAnswer : Obligations.ConstantCommandsAnswer :=
  fun _ => ⟨rfl, rfl, rfl, rfl⟩

section ChanRec

variable (ch : Channel)

theorem chanRec_pin : (chanRec ch).extractLsb' 0 8 = pinField ch.pin :=
  BitVec.extractLsb'_append_eq_right

theorem chanRec_lane : (chanRec ch).extractLsb' 8 4 = BitVec.ofNat 4 ch.lane :=
  (BitVec.extractLsb'_append_eq_of_le (by decide)).trans BitVec.extractLsb'_append_eq_right

theorem chanRec_offset : (chanRec ch).extractLsb' 12 8 = offsetField ch.offset :=
  (BitVec.extractLsb'_append_eq_of_le (by decide)).trans <|
    (BitVec.extractLsb'_append_eq_of_le (by decide)).trans BitVec.extractLsb'_append_eq_right

theorem chanRec_reserved : (chanRec ch).extractLsb' 20 11 = 0#11 :=
  (BitVec.extractLsb'_append_eq_of_le (by decide)).trans <|
    (BitVec.extractLsb'_append_eq_of_le (by decide)).trans <|
      (BitVec.extractLsb'_append_eq_of_le (by decide)).trans BitVec.extractLsb'_append_eq_right

theorem chanRec_enabled : (chanRec ch).getLsbD 31 = ch.enabled := by
  simp only [chanRec, BitVec.getLsbD_append]
  simp

end ChanRec

/-- Settles O29: the layout field by field. -/
theorem getchanAnswers : Obligations.GetchanAnswers :=
  ⟨fun _ => ⟨rfl, rfl⟩, fun ch =>
    ⟨(chanRec_pin ch).trans (by cases ch.pin <;> rfl), chanRec_lane ch,
      (chanRec_offset ch).trans (by cases ch.offset <;> rfl), chanRec_reserved ch, chanRec_enabled ch⟩⟩

end Sys2Proof.Machine
end

section
/-! ## The stream port: AVAILABLE, PEEK, READ and WRITE, the peek cache, and the loopback round trip

The proofs of the statements about 42_stream. An equation per case says what each command answers; the laws of PEEK and READ
in a row, of the empty channel and of the round trip are then runs of those equations. -/

namespace Sys2Proof.Machine

variable {s t : State} {b : Byte}

/-! ### The extractor (R63, R180, R181) -/

theorem getLsbD_extract (w : Word) {k : Nat} (hk : k < 8) : (extract w).getLsbD k = w.getLsbD (24 + k) := by
  simp [extract, hk]

@[simp] theorem extract_append (b : Byte) (low : BitVec 24) : extract (b ++ low) = b :=
  BitVec.extractLsb'_append_eq_left

@[simp] theorem toNat_zextByte (b : Byte) : (zextByte b).toNat = b.toNat :=
  BitVec.toNat_setWidth_of_le (by decide)

theorem toNat_zextByte_le (b : Byte) : (zextByte b).toNat ≤ 255 := by
  rw [toNat_zextByte]
  exact Nat.le_of_lt_succ b.isLt

/-- A byte answer is told from "no data" (R181). -/
theorem zextByte_ne_minusOne (b : Byte) : zextByte b ≠ minusOne := by
  intro h
  have hle := toNat_zextByte_le b
  rw [h] at hle
  exact absurd hle (by decide)

/-- Settles O30: the extractor bit by bit and on an appended word, and the range of a byte answer. -/
theorem extractTakesTheTopByte : Obligations.ExtractTakesTheTopByte :=
  ⟨fun w _ hk => getLsbD_extract w hk, extract_append,
    fun b => ⟨toNat_zextByte b, toNat_zextByte_le b, zextByte_ne_minusOne b, by decide⟩⟩

/-! ### AVAILABLE (R182) -/

theorem exec_available_of_enabled (hrx : s.rx.enabled = true) :
    exec .available s = .next (s.respond (respCount s.rxq.length)) := by
  simp only [exec, execAvailable, hrx, if_true]

theorem exec_available_of_disabled (hrx : s.rx.enabled = false) :
    exec .available s = .next (s.raise (.rxUnconfigured (encode .available))) := by
  simp [exec, execAvailable, hrx]

/-- Settles O31: AVAILABLE answers the count by `respond`, and does no more. -/
theorem availableCountsWords : Obligations.AvailableCountsWords :=
  fun _ hrx => exec_available_of_enabled hrx

/-! ### PEEK (R183) -/

theorem exec_peek_of_cached (hrx : s.rx.enabled = true) (hb : s.peek = some b) :
    exec .peek s = .next (s.respond (zextByte b)) := by
  simp only [exec, execPeek, hrx, hb, if_true]

theorem exec_peek_of_empty (hrx : s.rx.enabled = true) (hn : s.peek = none) (hq : s.rxq = []) :
    exec .peek s = .next (s.respond minusOne) := by
  simp only [exec, execPeek, hrx, hn, hq, if_true]

theorem exec_peek_of_queued {w : Word} {q : List Word} (hrx : s.rx.enabled = true) (hn : s.peek = none)
    (hq : s.rxq = w :: q) :
    exec .peek s = .next (State.respond { s.setRxq q with peek := some (extract w) } (zextByte (extract w))) := by
  simp only [exec, execPeek, hrx, hn, hq, if_true]

theorem exec_peek_of_disabled (hrx : s.rx.enabled = false) :
    exec .peek s = .next (s.raise (.rxUnconfigured (encode .peek))) := by
  simp [exec, execPeek, hrx]

/-- Settles O32, by the equations of PEEK. -/
theorem peekAnswers : Obligations.PeekAnswers :=
  fun _ hrx => ⟨fun _ hb => exec_peek_of_cached hrx hb, exec_peek_of_empty hrx, fun _ _ => exec_peek_of_queued hrx⟩

/-! ### READ (R184) -/

theorem exec_read_of_cached (hrx : s.rx.enabled = true) (hb : s.peek = some b) :
    exec .read s = .next (State.respond { s with peek := none } (zextByte b)) := by
  simp only [exec, execRead, hrx, hb, if_true]

theorem exec_read_of_empty (hrx : s.rx.enabled = true) (hn : s.peek = none) (hq : s.rxq = []) :
    exec .read s = .next (s.respond minusOne) := by
  simp only [exec, execRead, hrx, hn, hq, if_true]

theorem exec_read_of_queued {w : Word} {q : List Word} (hrx : s.rx.enabled = true) (hn : s.peek = none)
    (hq : s.rxq = w :: q) :
    exec .read s = .next ((s.setRxq q).respond (zextByte (extract w))) := by
  simp only [exec, execRead, hrx, hn, hq, if_true]

theorem exec_read_of_disabled (hrx : s.rx.enabled = false) :
    exec .read s = .next (s.raise (.rxUnconfigured (encode .read))) := by
  simp [exec, execRead, hrx]

/-- Settles O33, by the equations of READ. -/
theorem readAnswers : Obligations.ReadAnswers :=
  fun _ hrx => ⟨fun _ hb => exec_read_of_cached hrx hb, exec_read_of_empty hrx, fun _ _ => exec_read_of_queued hrx⟩

/-! ### WRITE (R185, R240) -/

theorem exec_write_of_room (htx : s.tx.enabled = true) (hroom : s.txq.length ≠ s.txCap) :
    exec (.write b) s = .next ((s.setTxq (s.txq ++ [zextByte b])).respond respOne) := by
  simp only [exec, execWrite, htx, hroom, if_true, if_false]

theorem exec_write_of_full (htx : s.tx.enabled = true) (hfull : s.txq.length = s.txCap) :
    exec (.write b) s = .next s := by
  simp only [exec, execWrite, htx, hfull, if_true]

theorem exec_write_of_disabled (htx : s.tx.enabled = false) :
    exec (.write b) s = .next (s.raise (.txUnconfigured (encode (.write b)))) := by
  simp [exec, execWrite, htx]

/-- The byte of a TX word is its low end (R64). -/
@[simp] theorem zextByte_low (b : Byte) : (zextByte b).extractLsb' 0 8 = b :=
  (BitVec.extractLsb'_setWidth_of_le (by decide)).trans BitVec.extractLsb'_eq_self

theorem zextByte_high (b : Byte) : (zextByte b).extractLsb' 8 24 = 0#24 := by
  ext k hk
  simp [zextByte]

/-- Settles O35: the equations of WRITE on an enabled channel, the append read back, and the layout of the word. -/
theorem writeAppendsOrHolds : Obligations.WriteAppendsOrHolds :=
  fun b _ htx => ⟨exec_write_of_room htx, exec_write_of_full htx, State.txq_setTxq .., zextByte_low b, zextByte_high b⟩

/-- Settles O34: the fault is raised before anything else is looked at. -/
theorem unconfiguredStreamFaults : Obligations.UnconfiguredStreamFaults :=
  fun _ => ⟨fun hrx => ⟨exec_available_of_disabled hrx, exec_peek_of_disabled hrx, exec_read_of_disabled hrx⟩,
    fun htx _ => exec_write_of_disabled htx⟩

/-! ### The cache and the RX FIFO under a push (R210, R218) -/

@[simp] theorem rxPush_rx (line : BitVec 10) (low : BitVec 24) (s : State) : (rxPush line low s).rx = s.rx := by
  obtain ⟨rxf, n, e⟩ := rxPush_frame line low s
  rw [e]

@[simp] theorem rxPush_peek (line : BitVec 10) (low : BitVec 24) (s : State) : (rxPush line low s).peek = s.peek := by
  obtain ⟨rxf, n, e⟩ := rxPush_frame line low s
  rw [e]

/-- A push with room appends its word to the RX FIFO (R210). -/
theorem rxPush_rxq_of_room (line : BitVec 10) (low : BitVec 24) (hrx : s.rx.enabled = true)
    (hroom : s.rxq.length < s.rxCap) : (rxPush line low s).rxq = s.rxq ++ [rxByte line s ++ low] := by
  have hpush : ∀ u : State, u.rxq = s.rxq → u.rxCap = s.rxCap →
      (pushWord (rxByte line s ++ low) u).rxq = s.rxq ++ [rxByte line s ++ low] := by
    intro u hq hcap
    rw [pushWord, if_pos (by rwa [hq, hcap]), State.rxq_setRxq, hq]
  rw [rxPush, if_pos hrx, rxDrawn]
  split
  · exact hpush s rfl rfl
  · exact hpush s.drawn rfl rfl

/-! ### PEEK and READ in a row (R188, R189) -/

/-- What a PEEK on an enabled channel leaves: a byte in the cache, which it answered, or an empty channel, where it answered
−1. -/
theorem exec_peek_cases (hrx : s.rx.enabled = true) (h : exec .peek s = .next t) :
    (∃ b, t.rx.enabled = true ∧ t.peek = some b ∧ t.respond (zextByte b) = t)
    ∨ s.peek = none ∧ s.rxq = [] ∧ t = s.respond minusOne := by
  cases hp : s.peek with
  | some b =>
    cases (exec_peek_of_cached hrx hp).symm.trans h
    exact .inl ⟨b, hrx, hp, rfl⟩
  | none =>
    cases hq : s.rxq with
    | nil =>
      cases (exec_peek_of_empty hrx hp hq).symm.trans h
      exact .inr ⟨rfl, rfl, rfl⟩
    | cons w q =>
      cases (exec_peek_of_queued hrx hp hq).symm.trans h
      exact .inl ⟨extract w, hrx, rfl, rfl⟩

/-- A PEEK that finds in the cache the byte answered last changes nothing. -/
theorem exec_peek_eq_self (hrx : s.rx.enabled = true) (hb : s.peek = some b) (hv : s.respond (zextByte b) = s) :
    exec .peek s = .next s := by
  rw [exec_peek_of_cached hrx hb, hv]

/-- A push leaves the answer of a PEEK from the cache as it was. -/
theorem exec_peek_rxPush_of_cached (line : BitVec 10) (low : BitVec 24) (hrx : s.rx.enabled = true)
    (hb : s.peek = some b) :
    exec .peek (rxPush line low s) = .next ((rxPush line low s).respond (zextByte b)) :=
  exec_peek_of_cached (by rwa [rxPush_rx]) (by rwa [rxPush_peek])

/-- After a push to an empty channel a PEEK answers a byte. -/
theorem exec_peek_rxPush_of_empty (line : BitVec 10) (low : BitVec 24) (hrx : s.rx.enabled = true)
    (hn : s.peek = none) (hq : s.rxq = []) (hd : 1 ≤ s.launch.fifoDepth) :
    ∃ u b, exec .peek (rxPush line low s) = .next u ∧ u.resp = some (zextByte b) := by
  have hroom : s.rxq.length < s.rxCap := by
    rw [hq, List.length_nil, State.rxCap, capRx]
    omega
  have hpush := rxPush_rxq_of_room line low hrx hroom
  rw [hq, List.nil_append] at hpush
  exact ⟨_, _, exec_peek_of_queued (by rwa [rxPush_rx]) (by rwa [rxPush_peek]) hpush, rfl⟩

/-- Settles O36: a cached byte is answered whatever is pushed, and a push to an empty channel brings a byte to answer. -/
theorem secondPeekChangesNothing : Obligations.SecondPeekChangesNothing := by
  refine ⟨fun s t hrx h => ?_, fun s t line low hrx h => ⟨fun hdata => ?_, fun hn hq hd => ?_⟩⟩
  · rcases exec_peek_cases hrx h with ⟨b, he, hb, hv⟩ | ⟨hn, hq, rfl⟩
    · exact exec_peek_eq_self he hb hv
    · exact exec_peek_of_empty hrx hn hq
  · rcases exec_peek_cases hrx h with ⟨b, he, hb, hv⟩ | ⟨hn, hq, -⟩
    · have hresp : t.resp = some (zextByte b) := (congrArg State.resp hv).symm
      exact ⟨_, exec_peek_rxPush_of_cached line low he hb, hresp.symm, rfl⟩
    · exact absurd hdata (by simp [hn, hq])
  · cases (exec_peek_of_empty hrx hn hq).symm.trans h
    obtain ⟨u, b, hu, hb⟩ := exec_peek_rxPush_of_empty (s := s.respond minusOne) line low hrx hn hq hd
    exact ⟨u, b, hu, hb, fun he => zextByte_ne_minusOne b (Option.some.inj (hb.symm.trans he))⟩

/-- A READ with the cache empty answers the oldest word's byte, or −1 with the FIFO empty too. -/
theorem exec_read_uncached (hrx : s.rx.enabled = true) (hn : s.peek = none) :
    ∃ t, exec .read s = .next t
      ∧ t.resp = some (match s.rxq with | [] => minusOne | w :: _ => zextByte (extract w)) := by
  cases hq : s.rxq with
  | nil => exact ⟨_, exec_read_of_empty hrx hn hq, rfl⟩
  | cons w q => exact ⟨_, exec_read_of_queued hrx hn hq, rfl⟩

/-- Settles O37: the PEEK left the byte it answered, the READ drains it, and the next READ finds the cache empty. -/
theorem readAfterPeekAnswersThePeek : Obligations.ReadAfterPeekAnswersThePeek := by
  intro s t b hrx h hb
  rcases exec_peek_cases hrx h with ⟨b', he, hb', hv⟩ | ⟨hn, -, rfl⟩
  · cases hb.symm.trans hb'
    exact ⟨(congrArg State.resp hv).symm, exec_peek_eq_self he hb hv, _, exec_read_of_cached he hb, rfl, rfl, rfl,
      exec_read_uncached he rfl⟩
  · cases hn.symm.trans hb

/-! ### The empty channel (R190) -/

/-- The block is started, and the RX channel is enabled with nothing in the cache or the FIFO. -/
def State.rxEmpty (s : State) : Prop :=
  s.started = true ∧ s.rx.enabled = true ∧ s.peek = none ∧ s.rxq = []

/-- Only a push brings a byte to an empty channel: every effect of a command keeps it empty. -/
theorem CommandEffect.rxEmpty (h : CommandEffect s t) (hs : s.rxEmpty) : t.rxEmpty := by
  obtain ⟨hst, hrx, hn, hq⟩ := hs
  cases h with
  | held | raised | responded | enqueued => exact ⟨hst, hrx, hn, hq⟩
  | uncached => exact ⟨hst, hrx, rfl, hq⟩
  | dequeued hrx w q hw => cases hq.symm.trans hw
  | recorded hns | configured hns => cases hst.symm.trans hns

theorem txPop_rxEmpty (hs : s.rxEmpty) : (txPop s).rxEmpty := by
  rcases txPop_cases s with ⟨-, e⟩ | ⟨w, q, -, -, e⟩ <;> rw [e] <;> exact hs

/-- Settles O38: the channel stays empty, and READ, PEEK and AVAILABLE answer as their equations say. -/
theorem emptyChannelStaysEmpty : Obligations.EmptyChannelStaysEmpty := by
  intro s hst hrx hn hq
  have hs : s.rxEmpty := ⟨hst, hrx, hn, hq⟩
  refine ⟨fun i t h => ⟨(exec_effect h).rxEmpty hs, ?_, ?_⟩, txPop_rxEmpty hs⟩
  · rintro (rfl | rfl)
    · cases (exec_read_of_empty hrx hn hq).symm.trans h
      rfl
    · cases (exec_peek_of_empty hrx hn hq).symm.trans h
      rfl
  · rintro rfl
    cases (exec_available_of_enabled hrx).symm.trans h
    rw [hq]
    rfl

/-! ### The peek cache (R192) -/

theorem execStart_keeps_peek {frame : BitVec 16} {baud : Word} (h : execStart frame baud s = .next t) :
    t.peek = s.peek := by
  rcases execStart_cases frame baud s with
    ⟨-, hx⟩ | ⟨-, -, hx⟩ | ⟨-, -, p, -, hx⟩ | ⟨-, -, -, l, -, hx⟩ | ⟨-, -, -, -, hx⟩ <;> cases hx.symm.trans h
  case inr.inr.inr.inr => exact (startChannels_sameRecord baud s).peek
  all_goals rfl

/-- No command but PEEK and READ touches the cache. -/
theorem exec_keeps_peek {i : Instr} (h : exec i s = .next t) (hp : i ≠ .peek) (hr : i ≠ .read) : t.peek = s.peek := by
  cases i with
  | peek => exact absurd rfl hp
  | read => exact absurd rfl hr
  | config a b c d e =>
    rcases execConfig_cases a b c d e s with ⟨f, hx⟩ | ⟨-, -, hx⟩ <;> cases hx.symm.trans h <;> rfl
  | start frame baud => exact execStart_keeps_peek h
  | available =>
    cases hrx : s.rx.enabled with
    | true => cases (exec_available_of_enabled hrx).symm.trans h; rfl
    | false => cases (exec_available_of_disabled hrx).symm.trans h; rfl
  | write b =>
    cases htx : s.tx.enabled with
    | false => cases (exec_write_of_disabled htx).symm.trans h; rfl
    | true =>
      by_cases hfull : s.txq.length = s.txCap
      · cases (exec_write_of_full htx hfull).symm.trans h; rfl
      · cases (exec_write_of_room htx hfull).symm.trans h; rfl
  | divcalc baud =>
    by_cases hb : baud = 0#32
    · subst hb
      cases (exec_divcalc_zero s).symm.trans h; rfl
    · cases (exec_divcalc_of_ne_zero hb s).symm.trans h; rfl
  | getdiv =>
    cases hd : s.div with
    | none => cases (exec_getdiv_of_none hd).symm.trans h; rfl
    | some d => cases (exec_getdiv_of_some hd).symm.trans h; rfl
  | stop | endCmd | flush | ready | getchan => cases h; rfl

/-- PEEK keeps what the cache holds, and fills it only when it is empty. -/
theorem exec_peek_fills (h : exec .peek s = .next t) : t.peek = s.peek ∨ s.peek = none ∧ t.peek ≠ none := by
  cases hrx : s.rx.enabled with
  | false =>
    cases (exec_peek_of_disabled hrx).symm.trans h
    exact .inl rfl
  | true =>
    cases hp : s.peek with
    | some b =>
      cases (exec_peek_of_cached hrx hp).symm.trans h
      exact .inl hp
    | none =>
      rcases exec_peek_cases hrx h with ⟨b, -, hb, -⟩ | ⟨-, -, rfl⟩
      · exact .inr ⟨rfl, by simp [hb]⟩
      · exact .inl hp

/-- READ keeps an empty cache empty, and empties a full one. -/
theorem exec_read_drains (h : exec .read s = .next t) : t.peek = s.peek ∨ t.peek = none := by
  cases hrx : s.rx.enabled with
  | false =>
    cases (exec_read_of_disabled hrx).symm.trans h
    exact .inl rfl
  | true =>
    cases hp : s.peek with
    | some b =>
      cases (exec_read_of_cached hrx hp).symm.trans h
      exact .inr rfl
    | none =>
      cases hq : s.rxq with
      | nil =>
        cases (exec_read_of_empty hrx hp hq).symm.trans h
        exact .inr hp
      | cons w q =>
        cases (exec_read_of_queued hrx hp hq).symm.trans h
        exact .inr hp

theorem txPop_peek (s : State) : (txPop s).peek = s.peek := by
  rcases txPop_cases s with ⟨-, e⟩ | ⟨w, q, -, -, e⟩ <;> rw [e]
  rfl

/-- Settles O39, agent by agent: PEEK, READ, every other command, and the two lanes. -/
theorem cacheIsFilledByPeekAndDrainedByRead : Obligations.CacheIsFilledByPeekAndDrainedByRead := by
  refine ⟨fun i s t h => ⟨exec_keeps_peek h, ?_, ?_⟩, rxPush_peek, txPop_peek⟩
  · rintro rfl
    exact exec_peek_fills h
  · rintro rfl
    exact exec_read_drains h

/-! ### Round a wire (R194) -/

theorem frameOk_frameOf (b : Byte) : frameOk (frameOf b) = true := by
  simp only [frameOk, frameOf, BitVec.getLsbD_append]
  simp

theorem frameByte_frameOf (b : Byte) : frameByte (frameOf b) = b :=
  (BitVec.extractLsb'_append_eq_of_le (by decide)).trans BitVec.extractLsb'_append_eq_right

/-- Under valid timing the RX lane takes from a byte's frame that byte (R211). -/
theorem rxByte_frameOf (ht : s.timingValid = true) (b : Byte) : rxByte (frameOf b) s = b := by
  have hsettled : rxSettled (frameOf b) s = true := by rw [rxSettled, frameOk_frameOf, ht]; rfl
  rw [rxByte, if_pos hsettled, frameByte_frameOf]

/-- Both channels run under valid timing, with nothing on its way to the TX line and an empty cache: a byte can go round. -/
structure LoopReady (s : State) : Prop where
  rxOn   : s.rx.enabled = true
  txOn   : s.tx.enabled = true
  timing : s.timingValid = true
  cache  : s.peek = none
  txq    : s.txq = []
  txRoom : 0 < s.txCap

/-- What the bytes sent from `s` to `t`, each with the low bits of its RX word, leave: one RX word and one byte on the line for
each of them, and a block ready for the next. -/
structure Looped (bs : List (Byte × BitVec 24)) (s t : State) : Prop where
  ready  : LoopReady t
  rxq    : t.rxq = s.rxq ++ bs.map fun e => e.1 ++ e.2
  lineTx : t.lineTx = s.lineTx ++ bs.map fun e => e.1
  launch : t.launch = s.launch

theorem Looped.trans {bs cs : List (Byte × BitVec 24)} {u : State} (h : Looped bs s t) (h' : Looped cs t u) :
    Looped (bs ++ cs) s u where
  ready  := h'.ready
  rxq    := by rw [h'.rxq, h.rxq, List.map_append, List.append_assoc]
  lineTx := by rw [h'.lineTx, h.lineTx, List.map_append, List.append_assoc]
  launch := h'.launch.trans h.launch

/-- The state once `b` has been written and popped onto the line. -/
def State.sentByte (s : State) (b : Byte) : State :=
  { ((s.setTxq [zextByte b]).respond respOne).setTxq [] with lineTx := s.lineTx ++ [b] }

/-- With the TX FIFO empty, a WRITE and a pop send the byte (R185, R214). -/
theorem LoopReady.execWrite_txPop (h : LoopReady s) (b : Byte) :
    ∃ t, execWrite b s = .next t ∧ txPop t = s.sentByte b := by
  have hroom : s.txq.length ≠ s.txCap := by
    rw [h.txq]
    exact h.txRoom.ne
  have hwrite := exec_write_of_room (b := b) h.txOn hroom
  rw [h.txq] at hwrite
  refine ⟨_, hwrite, ?_⟩
  have hq : ((s.setTxq [zextByte b]).respond respOne).txq = [zextByte b] := State.txq_setTxq ..
  rcases txPop_cases ((s.setTxq [zextByte b]).respond respOne) with ⟨hoff | hnil, -⟩ | ⟨w, q, -, hwq, e⟩
  · cases hoff.symm.trans h.txOn
  · cases hnil.symm.trans hq
  · cases hwq.symm.trans hq
    rw [List.nil_append, e, zextByte_low]
    rfl

theorem LoopReady.sentByte (h : LoopReady s) (b : Byte) : LoopReady (s.sentByte b) where
  rxOn   := h.rxOn
  txOn   := h.txOn
  timing := h.timing
  cache  := h.cache
  txq    := State.txq_setTxq ..
  txRoom := h.txRoom

theorem LoopReady.rxPush (h : LoopReady s) (line : BitVec 10) (low : BitVec 24) : LoopReady (rxPush line low s) := by
  obtain ⟨rxf, n, e⟩ := rxPush_frame line low s
  rw [e]
  exact ⟨h.rxOn, h.txOn, h.timing, h.cache, h.txq, h.txRoom⟩

/-- The RX lane gets the frame of the byte sent. -/
theorem loopByte_eq (h : LoopReady s) (b : Byte) (low : BitVec 24) :
    loopByte b low s = rxPush (frameOf b) low (s.sentByte b) := by
  obtain ⟨t, hwrite, hpop⟩ := h.execWrite_txPop b
  have hlast : (s.sentByte b).lineTx.getLast? = some b := List.getLast?_concat
  simp only [loopByte, hwrite, hpop, hlast]

/-- One byte round the wire, with room in the RX FIFO. -/
theorem loopByte_looped (h : LoopReady s) (hroom : s.rxq.length < s.rxCap) (b : Byte) (low : BitVec 24) :
    Looped [(b, low)] s (loopByte b low s) := by
  have hsent := h.sentByte b
  have hrxq := rxPush_rxq_of_room (s := s.sentByte b) (frameOf b) low hsent.rxOn hroom
  rw [rxByte_frameOf hsent.timing] at hrxq
  obtain ⟨rxf, n, e⟩ := rxPush_frame (frameOf b) low (s.sentByte b)
  rw [loopByte_eq h]
  exact ⟨hsent.rxPush .., hrxq, by rw [e]; rfl, by rw [e]; rfl⟩

/-- The bytes round the wire one after the other, with room in the RX FIFO for all of them. -/
theorem loopBytes_looped (bs : List (Byte × BitVec 24)) :
    ∀ s, LoopReady s → s.rxq.length + bs.length ≤ s.rxCap → Looped bs s (loopBytes bs s) := by
  induction bs with
  | nil => exact fun s h _ => ⟨h, (List.append_nil _).symm, (List.append_nil _).symm, rfl⟩
  | cons e bs ih =>
    intro s h hroom
    rw [List.length_cons] at hroom
    have hone := loopByte_looped h (by omega) e.1 e.2
    refine hone.trans (ih _ hone.ready ?_)
    rw [hone.rxq, State.rxCap, hone.launch, List.length_append, List.length_map, List.length_singleton]
    change _ ≤ s.rxCap
    omega

/-- READs in a row with the cache empty answer the bytes of the queued words, oldest first. -/
theorem readMany_of_queued (q : List Word) :
    ∀ s : State, s.rx.enabled = true → s.peek = none → s.rxq = q →
      readMany q.length s = q.map fun w => zextByte (extract w) := by
  induction q with
  | nil => exact fun _ _ _ _ => rfl
  | cons w q ih =>
    intro s hrx hn hq
    have hread : execRead s = .next ((s.setRxq q).respond (zextByte (extract w))) := exec_read_of_queued hrx hn hq
    have hrest := ih ((s.setRxq q).respond (zextByte (extract w))) hrx hn (State.rxq_setRxq ..)
    simp only [List.length_cons, readMany, hread, hrest]
    rfl

/-- Settles O47: the RX FIFO holds a word for each byte, in order, and the READs answer them. -/
theorem loopbackRoundTrip : Obligations.LoopbackRoundTrip := by
  intro bs s hrx htx ht hn hq htq hcap hle
  have hroom : s.rxq.length + bs.length ≤ s.rxCap := by
    rw [hq, List.length_nil, Nat.zero_add]
    exact hle
  have h := loopBytes_looped bs s ⟨hrx, htx, ht, hn, htq, hcap⟩ hroom
  have hrxq := h.rxq
  rw [hq, List.nil_append] at hrxq
  have hreads := readMany_of_queued _ _ h.ready.rxOn h.ready.cache hrxq
  rw [List.length_map, List.map_map] at hreads
  refine ⟨hreads.trans ?_, h.lineTx⟩
  exact List.map_congr_left fun e _ => congrArg zextByte (extract_append e.1 e.2)

end Sys2Proof.Machine
end

section
/-! ## The lanes: what a push and a pop do, their frame, the held WRITE, and what START fixes for good

The proofs of the statements about 43_lane_contract. The RX FIFO after a push is said case by case (with room, and full under
each policy); a pop has an equation per case; what no step undoes is a transitive relation that each effect of a command is in. -/

namespace Sys2Proof.Machine

variable {s t u : State}

/-! ### The frame of a byte and the byte of a push (R66, R211, R214) -/

theorem frameOk_iff (line : BitVec 10) : frameOk line = true ↔ line.getLsbD 0 = false ∧ line.getLsbD 9 = true := by
  simp [frameOk]

theorem getLsbD_frameByte (line : BitVec 10) {k : Nat} (hk : k < 8) :
    (frameByte line).getLsbD k = line.getLsbD (1 + k) := by
  simp [frameByte, hk]

/-- Settles O43: the frame is well-formed, and its data levels are the bits of its data byte, which is `b`. -/
theorem frameCarriesTheByte : Obligations.FrameCarriesTheByte := by
  intro b
  obtain ⟨hstart, hstop⟩ := (frameOk_iff _).1 (frameOk_frameOf b)
  refine ⟨hstart, fun k hk => ?_, hstop, frameOk_frameOf b, frameByte_frameOf b⟩
  rw [← getLsbD_frameByte _ hk, frameByte_frameOf]

/-- Under valid timing the byte of a well-formed frame is that of its data levels (R211). -/
theorem getLsbD_rxByte {line : BitVec 10} (ht : s.timingValid = true) (hstart : line.getLsbD 0 = false)
    (hstop : line.getLsbD 9 = true) {k : Nat} (hk : k < 8) : (rxByte line s).getLsbD k = line.getLsbD (1 + k) := by
  have hsettled : rxSettled line s = true := by rw [rxSettled, (frameOk_iff line).2 ⟨hstart, hstop⟩, ht]; rfl
  rw [rxByte, if_pos hsettled, getLsbD_frameByte line hk]

/-! ### The RX FIFO after a push (R210, R212) -/

/-- Settles O40: the word appended is the byte of the push above its low bits. -/
theorem rxPushAppendsFrameByte : Obligations.RxPushAppendsFrameByte := by
  intro line low s hrx hroom
  refine ⟨rxByte line s ++ low, rxPush_rxq_of_room line low hrx hroom, BitVec.setWidth_append_eq_right,
    fun ht hstart hstop k hk => ?_⟩
  rw [← getLsbD_rxByte ht hstart hstop hk, ← getLsbD_extract _ hk, extract_append]

theorem rxDrawn_rxq (line : BitVec 10) (s : State) : (rxDrawn line s).rxq = s.rxq := by
  unfold rxDrawn
  split <;> rfl

theorem rxDrawn_launch (line : BitVec 10) (s : State) : (rxDrawn line s).launch = s.launch := by
  unfold rxDrawn
  split <;> rfl

/-- A push to a full FIFO overruns (R212). -/
theorem rxPush_of_full (line : BitVec 10) (low : BitVec 24) (hrx : s.rx.enabled = true) (hfull : s.rxCap ≤ s.rxq.length) :
    rxPush line low s = overrun (rxByte line s ++ low) (rxDrawn line s) := by
  rw [rxPush, if_pos hrx, pushWord, if_neg]
  rw [rxDrawn_rxq, State.rxCap, rxDrawn_launch]
  exact hfull.not_gt

theorem overrunKind_always {k : OverrunKind} (h : s.launch.overrunPolicy = .always k) : overrunKind s = k := by
  rw [overrunKind, h]

theorem overrun_rxq_of_dropNewest (w : Word) (h : s.launch.overrunPolicy = .always .dropNewest) :
    (overrun w s).rxq = s.rxq := by
  rw [overrun, overrunKind_always h]
  rfl

theorem overrun_rxq_of_dropOldest (w : Word) (h : s.launch.overrunPolicy = .always .dropOldest) :
    (overrun w s).rxq = s.rxq.tail ++ [w] := by
  rw [overrun, overrunKind_always h]
  exact State.rxq_setRxq ..

/-- Settles O41: the count neither shrinks nor grows past the capacity (O46), and the two policies say what the overrun does. -/
theorem overrunFollowsThePolicy : Obligations.OverrunFollowsThePolicy := by
  intro line low s hd hrx hfull
  have hpush := rxPush_of_full line low hrx hfull.ge
  obtain ⟨hge, hle, -⟩ := laneStepsNeverShrinkRx s line low hd hfull.le
  refine ⟨le_antisymm hle (hfull ▸ hge), fun hp => ?_, fun hp => ?_,
    fun ht hstart hstop k hk => getLsbD_rxByte ht hstart hstop hk⟩
  · rw [hpush, overrun_rxq_of_dropNewest _ (by rwa [rxDrawn_launch]), rxDrawn_rxq]
  · rw [hpush, overrun_rxq_of_dropOldest _ (by rwa [rxDrawn_launch]), rxDrawn_rxq]

/-! ### The pop (R214, R216) and the lanes that have no step (R219) -/

theorem txPop_of_empty (hq : s.txq = []) : txPop s = s := by
  rw [txPop, hq]
  exact ite_self s

theorem txPop_of_queued {w : Word} {q : List Word} (htx : s.tx.enabled = true) (hq : s.txq = w :: q) :
    txPop s = { s.setTxq q with lineTx := s.lineTx ++ [w.extractLsb' 0 8] } := by
  rw [txPop, if_pos htx, hq]

/-- Settles O42, by the two equations of a pop on an enabled lane. -/
theorem txPopSendsTheOldestByte : Obligations.TxPopSendsTheOldestByte := by
  refine fun s htx => ⟨txPop_of_empty, fun w q hq => ?_⟩
  have hpop := txPop_of_queued htx hq
  exact ⟨hpop, hpop ▸ State.txq_setTxq s q⟩

theorem rxPush_of_disabled (line : BitVec 10) (low : BitVec 24) (hrx : s.rx.enabled = false) : rxPush line low s = s := by
  simp [rxPush, hrx]

theorem txPop_of_disabled (htx : s.tx.enabled = false) : txPop s = s := by
  simp [txPop, htx]

/-- Settles O45: the block invariant has the channel disabled in both cases, and a disabled lane has no step. -/
theorem idleChannelsHaveNoLaneStep : Obligations.IdleChannelsHaveNoLaneStep := by
  rintro s line low ⟨hrxIdle, htxIdle, -, -, -, hunstarted⟩
  refine ⟨fun h => rxPush_of_disabled line low ?_, fun h => txPop_of_disabled ?_⟩ <;>
    rcases h with hpin | ⟨hf, hs⟩
  · exact (hrxIdle hpin).1
  · obtain ⟨⟨hrx, -⟩, -⟩ := hunstarted hf hs
    exact hrx
  · exact (htxIdle hpin).1
  · obtain ⟨-, ⟨htx, -⟩, -⟩ := hunstarted hf hs
    exact htx

/-! ### What a lane step writes (R218) -/

/-- Settles O44: a push writes the RX FIFO under its own key or takes draws alone, and a pop writes the TX FIFO under its key
and the line history. -/
theorem laneStepsWriteOnlyFifoAndLine : Obligations.LaneStepsWriteOnlyFifoAndLine := by
  refine fun s => ⟨fun line low => ?_, ?_⟩
  · rcases rxPush_cases line low s with ⟨n, e⟩ | ⟨q, n, -, e⟩
    · exact ⟨s.fabric.rxf, n, e, fun _ _ => rfl⟩
    · exact ⟨_, n, e, fun _ hj => State.setRxq_rxf_ne s q hj⟩
  · rcases txPop_cases s with ⟨-, e⟩ | ⟨w, q, -, -, e⟩
    · exact ⟨s.fabric.txf, s.lineTx, e, fun _ _ => rfl⟩
    · exact ⟨_, _, e, fun _ hj => State.setTxq_txf_ne s q hj⟩

/-! ### The held WRITE once the schedule has ended (R217, R240, R270) -/

theorem decode_encode_write (b : Byte) : decode (encode (.write b)) = .ok (.write b) :=
  encodeThenDecode (.write b) rfl

/-- With a WRITE pending on an enabled channel, the host waits exactly while the TX FIFO is full (R240). -/
theorem hostWaits_of_write {b : Byte} (hp : s.port = some (encode (.write b))) (htx : s.tx.enabled = true) :
    s.hostWaits = decide (s.txq.length = s.txCap) := by
  simp only [State.hostWaits, hp, State.holds, decode_encode_write, htx, Bool.true_and]

/-- With the schedule ended, the host runs its pending WRITE unless a fair TX step is due (log 3). -/
theorem step_eq_exec_write {b : Byte} (hf : s.fault = none) (ht : s.turns = [])
    (hp : s.port = some (encode (.write b))) (hw : (s.hostWaits && s.txFair) = false) :
    step s = exec (.write b) s := by
  have hs : { s with turns := [] } = s := by rw [← ht]
  have hstep := (step_eq_runCommand hf (.inr ⟨ht, rfl, hw⟩) (encode (.write b)) []).1 hp
  rwa [hs, runCommand_of_decode_ok (decode_encode_write b)] at hstep

/-- With the schedule ended, a fair TX lane moves while the host waits (R217; log 3). -/
theorem step_eq_txPop (hf : s.fault = none) (ht : s.turns = []) (hw : s.hostWaits = true) (hfair : s.txFair = true) :
    step s = .next (txPop s) := by
  simp only [step, hf, takeTurn, ht, hw, hfair, Bool.and_self, if_true]

/-- With the schedule ended and room in the TX FIFO, a pending WRITE completes (R185). -/
theorem step_completes_write {b : Byte} (hf : s.fault = none) (ht : s.turns = [])
    (hp : s.port = some (encode (.write b))) (htx : s.tx.enabled = true) (hroom : s.txq.length ≠ s.txCap) :
    step s = .next ((s.setTxq (s.txq ++ [zextByte b])).respond respOne) := by
  rw [step_eq_exec_write hf ht hp, exec_write_of_room htx hroom]
  rw [hostWaits_of_write hp htx, decide_eq_false hroom, Bool.false_and]

/-- Settles O51: under valid timing the fair TX lane pops and leaves room for the WRITE; without it only the host moves, and its
WRITE holds. -/
theorem heldWriteUnderFairness : Obligations.HeldWriteUnderFairness := by
  intro s b hf ht htx hp hfull
  refine ⟨fun w q hv hq => ?_, fun hv => ?_⟩
  · have hwaits : s.hostWaits = true := by rw [hostWaits_of_write hp htx, decide_eq_true hfull]
    have hfair : s.txFair = true := by rw [State.txFair, htx, hq, hv]; rfl
    have hpop := step_eq_txPop hf ht hwaits hfair
    have hq' := State.txq_setTxq s q
    have hroom : (s.setTxq q).txq.length ≠ (s.setTxq q).txCap := by
      rw [hq, List.length_cons] at hfull
      change _ ≠ s.txCap
      rw [hq', ← hfull]
      exact (Nat.lt_succ_self _).ne
    rw [txPop_of_queued htx hq] at hpop
    exact ⟨_, _, hpop, rfl, step_completes_write hf ht hp htx hroom, rfl, rfl,
      (State.txq_setTxq ..).trans (congrArg (· ++ [zextByte b]) hq')⟩
  · have hfair : s.txFair = false := by rw [State.txFair, hv, Bool.and_false]
    rw [step_eq_exec_write hf ht hp (by rw [hfair, Bool.and_false]), exec_write_of_full htx hfull]

/-! ### What START fixes for good (R220, R271) -/

/-- From `s` to `t` nothing that START has done is undone: a started block keeps its channels and divisor, and an enabled channel
stays enabled. -/
structure KeepsStart (s t : State) : Prop where
  started : s.started = true → t.started = true ∧ t.rx = s.rx ∧ t.tx = s.tx ∧ t.inst = s.inst ∧ t.div = s.div
  rx : s.rx.enabled = true → t.rx.enabled = true
  tx : s.tx.enabled = true → t.tx.enabled = true

theorem KeepsStart.of_eq (hs : t.started = s.started) (hrx : t.rx = s.rx) (htx : t.tx = s.tx) (hi : t.inst = s.inst)
    (hd : t.div = s.div) : KeepsStart s t where
  started h := ⟨hs.trans h, hrx, htx, hi, hd⟩
  rx h := hrx ▸ h
  tx h := htx ▸ h

theorem KeepsStart.of_not_started (hs : s.started = false) (hrx : s.rx.enabled = true → t.rx.enabled = true)
    (htx : s.tx.enabled = true → t.tx.enabled = true) : KeepsStart s t where
  started h := by simp [hs] at h
  rx := hrx
  tx := htx

theorem KeepsStart.trans (h : KeepsStart s t) (h' : KeepsStart t u) : KeepsStart s u where
  started hs := by
    obtain ⟨ht, hrx, htx, hi, hd⟩ := h.started hs
    obtain ⟨hu, hrx', htx', hi', hd'⟩ := h'.started ht
    exact ⟨hu, hrx'.trans hrx, htx'.trans htx, hi'.trans hi, hd'.trans hd⟩
  rx hs := h'.rx (h.rx hs)
  tx hs := h'.tx (h.tx hs)

/-- ConfigureRX clears no enabled flag. -/
theorem RxDone.keeps_enabled {d : DivResult} {c : ClkDiv} (h : RxDone d c s t) :
    (s.rx.enabled = true → t.rx.enabled = true) ∧ (s.tx.enabled = true → t.tx.enabled = true) := by
  rcases h with ⟨-, rfl⟩ | ⟨p, o, -, -, rfl⟩
  · exact ⟨id, id⟩
  · exact ⟨fun _ => rfl, id⟩

/-- ConfigureTX clears no enabled flag. -/
theorem TxDone.keeps_enabled {d : DivResult} {c : ClkDiv} (h : TxDone d c s t) :
    (s.rx.enabled = true → t.rx.enabled = true) ∧ (s.tx.enabled = true → t.tx.enabled = true) := by
  rcases h with ⟨-, rfl⟩ | ⟨p, o, -, -, rfl⟩
  · exact ⟨id, id⟩
  · exact ⟨id, fun _ => rfl⟩

/-- START on a block not started clears no enabled flag, whether it succeeds or runs out of room. -/
theorem startChannels_keepsStart (hs : s.started = false) (baud : Word) : KeepsStart s (startChannels baud s) := by
  rcases startChannels_cases baud s with ⟨p, -, -, e⟩ | ⟨s2, h2, ⟨p, -, -, e⟩ | ⟨s3, h3, e⟩⟩ <;> rw [e]
  · exact .of_not_started hs id id
  · obtain ⟨hrx, htx⟩ := h2.keeps_enabled
    exact .of_not_started hs hrx htx
  · obtain ⟨hrx, htx⟩ := h2.keeps_enabled
    obtain ⟨hrx', htx'⟩ := h3.keeps_enabled
    exact .of_not_started hs (fun h => hrx' (hrx h)) (fun h => htx' (htx h))

/-- The two commands that write the channels, CONFIG and START, do so only before a START has succeeded. -/
theorem CommandEffect.keepsStart (h : CommandEffect s t) : KeepsStart s t := by
  cases h with
  | recorded hs => exact .of_not_started hs id id
  | configured hs hl baud => exact startChannels_keepsStart hs baud
  | held | raised | responded | uncached | dequeued | enqueued => exact .of_eq rfl rfl rfl rfl rfl

theorem rxPush_keepsStart (line : BitVec 10) (low : BitVec 24) (s : State) : KeepsStart s (rxPush line low s) := by
  obtain ⟨rxf, n, e⟩ := rxPush_frame line low s
  rw [e]
  exact .of_eq rfl rfl rfl rfl rfl

theorem txPop_keepsStart (s : State) : KeepsStart s (txPop s) := by
  rcases txPop_cases s with ⟨-, e⟩ | ⟨w, q, -, -, e⟩ <;> rw [e] <;> exact .of_eq rfl rfl rfl rfl rfl

/-- Settles O58: each effect of a command and each lane step keeps what START has done, and the relation is transitive. -/
theorem startIsNeverUndone : Obligations.StartIsNeverUndone := by
  intro s t h
  have hkeeps : KeepsStart s t :=
    step_keeps (P := KeepsStart s) (fun _ _ _ _ _ h => h.trans (.of_eq rfl rfl rfl rfl rfl))
      (fun _ _ _ h => h.trans (.of_eq rfl rfl rfl rfl rfl)) (fun _ _ _ _ h hx => h.trans (exec_effect hx).keepsStart)
      (fun line low u h => h.trans (rxPush_keepsStart line low u)) (fun u h => h.trans (txPop_keepsStart u)) h
      (.of_eq rfl rfl rfl rfl rfl)
  exact ⟨hkeeps.started, hkeeps.rx, hkeeps.tx⟩

end Sys2Proof.Machine
end

section
/-! ## Faults: before any write, and final

The proofs of the statements about 60_exceptions. A fault of a command is `raise` on the state the command met, or, for a program
that does not fit, `raise` on the state START has reached; and in an unfaulted state each agent's turn answers a next state. -/

namespace Sys2Proof.Machine

variable {s t : State}

/-! ### A faulting command (R231) -/

theorem RxDone.fault_eq {d : DivResult} {c : ClkDiv} (h : RxDone d c s t) : t.fault = s.fault := by
  rcases h with ⟨-, rfl⟩ | ⟨p, o, -, -, rfl⟩ <;> rfl

theorem TxDone.fault_eq {d : DivResult} {c : ClkDiv} (h : TxDone d c s t) : t.fault = s.fault := by
  rcases h with ⟨-, rfl⟩ | ⟨p, o, -, -, rfl⟩ <;> rfl

/-- Past its checks START can only fault for want of program memory (R141). -/
theorem startChannels_raises_noSpace_or_keeps_fault (baud : Word) (s : State) :
    (∃ (u : State) (p : Program), startChannels baud s = u.raise (.progNoSpace p))
      ∨ (startChannels baud s).fault = s.fault := by
  rcases startChannels_cases baud s with ⟨p, -, -, e⟩ | ⟨s2, h2, ⟨p, -, -, e⟩ | ⟨s3, h3, e⟩⟩
  · exact .inl ⟨_, _, e⟩
  · exact .inl ⟨_, _, e⟩
  · rw [e]
    exact .inr (h3.fault_eq.trans h2.fault_eq)

/-- A command that faults raises the fault on the state it met, or is a START that found no room for a program. -/
theorem CommandEffect.eq_raise_of_fault (h : CommandEffect s t) {c : FaultCode} (hs : s.fault = none)
    (ht : t.fault = some c) : t = s.raise c ∨ ∃ (u : State) (p : Program), c = .progNoSpace p ∧ t = u.raise c := by
  cases h with
  | raised c' => cases ht; exact .inl rfl
  | configured _ _ baud =>
    rcases startChannels_raises_noSpace_or_keeps_fault baud s with ⟨u, p, e⟩ | e
    · rw [e] at ht ⊢
      cases ht
      exact .inr ⟨u, p, rfl, rfl⟩
    · cases hs.symm.trans (e.symm.trans ht)
  | held | responded | uncached | dequeued | enqueued | recorded => cases hs.symm.trans ht

/-- Settles O50: either way the fault is raised last, and the state it is raised on is changed for F_PROG_NO_SPACE alone. -/
theorem faultsComeBeforeWrites : Obligations.FaultsComeBeforeWrites := by
  intro i s t c hs h ht
  rcases (exec_effect h).eq_raise_of_fault hs ht with rfl | ⟨u, p, hc, rfl⟩
  · exact ⟨s.raise_resp c, s.raise_port c, fun _ => s.raise_eq c⟩
  · exact ⟨u.raise_resp c, u.raise_port c, fun hne => absurd hc (hne p)⟩

/-! ### The faulted state, and the turns of an unfaulted one (R231, R237) -/

theorem runCommand_answers_next (w : Cmd) (s : State) : ∃ t, runCommand w s = .next t := by
  cases hd : decode w with
  | ok i => exact runCommand_of_decode_ok hd s ▸ exec_answers_next i s
  | error e => exact ⟨_, runCommand_of_decode_error hd s⟩

/-- The host's turn runs a word or rests (log 11). -/
theorem hostTurn_answers_next (s : State) : ∃ t, hostTurn s = .next t := by
  unfold hostTurn
  split
  · exact runCommand_answers_next _ _
  · exact runCommand_answers_next _ _
  · exact ⟨s, rfl⟩

/-- Whichever agent the schedule names, its turn is taken or passes (log 15). -/
theorem takeTurn_answers_next (s : State) : ∃ t, takeTurn s = .next t := by
  unfold takeTurn
  split
  · exact hostTurn_answers_next _
  · exact ⟨_, rfl⟩
  · exact ⟨_, rfl⟩
  · split
    · exact ⟨_, rfl⟩
    · exact hostTurn_answers_next s

/-- Settles O49: `step` answers a recorded fault, and otherwise takes a turn. -/
theorem faultedStateIsFinal : Obligations.FaultedStateIsFinal := by
  refine fun s => ⟨fun c hc => ?_, fun hs => ?_⟩
  · simp only [step, hc]
  · simpa only [step, hs] using takeTurn_answers_next s

end Sys2Proof.Machine
end

section
/-! ## The reset state, and the take-over of the TX pin

The proofs of the statements about 70_reset_and_hazards. Program memory at reset is read slot by slot; the invariants hold at the
reset of every launch whose premises they need; and ConfigureTX routes its pin by the last of its pin writes, after which no write
is to a pin. -/

namespace Sys2Proof.Machine

/-! ### Program memory at reset (R260, R60) -/

theorem pmAtReset_concat (used : List (Nat × Nat)) (u : Nat × Nat) :
    pmAtReset (used ++ [u]) = Table.set (pmAtReset used) (key u.1 u.2) .foreign :=
  List.foldl_concat ..

theorem get_pmAtReset (used : List (Nat × Nat)) (i o : Nat) :
    Table.get (pmAtReset used) (key i o) = if (i, o) ∈ used then some .foreign else none := by
  induction used using List.reverseRecOn with
  | nil => rfl
  | append_singleton used u ih =>
    have hu : key u.1 u.2 = key i o ↔ (i, o) = u := by rw [key_inj, Prod.ext_iff, eq_comm, @eq_comm _ u.2]
    rw [pmAtReset_concat, Table.get_set, ih]
    by_cases h : (i, o) = u <;> simp [hu, h]

theorem pmAtReset_wf (used : List (Nat × Nat)) : Table.wf (pmAtReset used) = true := by
  induction used using List.reverseRecOn with
  | nil => rfl
  | append_singleton used u ih => rw [pmAtReset_concat]; exact Table.wf_set _ _ _ ih

theorem Fabric.atReset_wf (used : List (Nat × Nat)) : (Fabric.atReset used).wf = true := by
  simp [Fabric.wf, Fabric.atReset, pmAtReset_wf, lanesOwned]

/-- Settles O52: each field has its value by definition, but for program memory, which is read slot by slot. -/
theorem resetLeavesTheSpecifiedState : Obligations.ResetLeavesTheSpecifiedState := by
  refine ⟨rfl, fun l => ⟨?pins, ?offsets, ?flags, ?line, ?unowned, ?routes, ?memory⟩⟩
  case pins => exact ⟨rfl, rfl, rfl, rfl, rfl⟩
  case offsets => exact ⟨rfl, rfl, rfl, rfl⟩
  case flags => exact ⟨rfl, rfl, rfl, rfl, rfl, rfl⟩
  case line => rfl
  case unowned => exact fun i n => ⟨rfl, rfl, rfl, rfl, rfl⟩
  case routes => exact fun p => ⟨rfl, rfl⟩
  case memory => exact get_pmAtReset l.pmUsed

/-! ### The invariants at reset (R24, R25, R28, R33, R260) -/

theorem Channel.fresh_notConfigured (lane : Nat) : (Channel.fresh lane).notConfigured := ⟨rfl, rfl, rfl⟩

theorem State.resetAt_blockInv (l : Launch) : (State.resetAt l).blockInv :=
  ⟨fun _ => Channel.fresh_notConfigured 0, fun _ => Channel.fresh_notConfigured 1, nofun, nofun, fun _ => rfl,
    fun _ _ => ⟨Channel.fresh_notConfigured 0, Channel.fresh_notConfigured 1, rfl⟩⟩

/-- The record of R260 is legal on every launch that has a coprocessor. -/
theorem State.resetAt_recordInv {l : Launch} (h : 0 < l.ninst) : (State.resetAt l).recordInv := by
  change configLegal l .unset .unset 0 1 0 = true
  simp [configLegal, pinLegal, nlanes, h]

theorem State.resetAt_fifoInv {l : Launch} (h : 1 ≤ l.fifoDepth) : (State.resetAt l).fifoInv :=
  ⟨nofun, nofun, nofun, fun _ _ => ⟨rfl, rfl⟩, h⟩

theorem State.resetAt_configuredInv (l : Launch) : (State.resetAt l).configuredInv :=
  ⟨rfl, rfl, ⟨nofun, nofun, nofun⟩, nofun, fun _ _ => ⟨rfl, rfl⟩⟩

/-- Settles O53: the default launch has a coprocessor and a FIFO depth, and the other invariants ask nothing of the launch. -/
theorem invariantsHoldAtReset : Obligations.InvariantsHoldAtReset :=
  ⟨State.resetAt_blockInv _, State.resetAt_recordInv (by decide), State.resetAt_fifoInv (by decide),
    State.resetAt_configuredInv _, Fabric.atReset_wf _⟩

/-! ### The take-over of the TX pin (R145, R265) -/

/-- The write is one of a pin's latch or direction. -/
def FabricWrite.drivesPin : FabricWrite → Bool
  | .pinout _ _ _ => true
  | .pindir _ _ _ => true
  | _ => false

theorem Fabric.apply_pins (f : Fabric) {w : FabricWrite} (h : w.drivesPin = false) :
    (f.apply w).pinout = f.pinout ∧ (f.apply w).pindir = f.pindir := by
  cases w with
  | pinout | pindir => cases h
  | _ => exact ⟨rfl, rfl⟩

theorem Fabric.applyAll_pins : ∀ (ws : List FabricWrite) (f : Fabric), (∀ w ∈ ws, w.drivesPin = false) →
    (f.applyAll ws).pinout = f.pinout ∧ (f.applyAll ws).pindir = f.pindir
  | [], _, _ => ⟨rfl, rfl⟩
  | w :: ws, f, h => by
    obtain ⟨hout, hdir⟩ := f.apply_pins (h w List.mem_cons_self)
    obtain ⟨hout', hdir'⟩ := Fabric.applyAll_pins ws (f.apply w) fun w' hw' => h w' (List.mem_cons_of_mem w hw')
    exact ⟨hout'.trans hout, hdir'.trans hdir⟩

theorem slotWrites_drivesPin {i : Nat} {prog : Program} {o n : Nat} {w : FabricWrite}
    (h : w ∈ slotWrites i prog o n) : w.drivesPin = false := by
  obtain ⟨k, -, rfl⟩ := List.mem_map.1 h
  rfl

theorem txLaneWrites_drivesPin {i p l o : Nat} {c : ClkDiv} : ∀ w ∈ txLaneWrites i p l o c, w.drivesPin = false := by
  simp [txLaneWrites, FabricWrite.drivesPin]

/-- Of the TX pin writes only the last, the routing itself, changes how a pin is routed. -/
theorem eq_txPinWrites_of_prefix_changes_funcsel {f : Fabric} {i p : Nat} {ws : List FabricWrite}
    (hws : ws <+: txPinWrites i p) (h : (f.applyAll ws).funcsel ≠ f.funcsel) : ws = txPinWrites i p := by
  simp only [txPinWrites, List.prefix_cons_iff, List.prefix_nil] at hws
  rcases hws with rfl | ⟨_, rfl, rfl | ⟨_, rfl, rfl | ⟨_, rfl, rfl⟩⟩⟩
  · exact absurd rfl h
  · exact absurd rfl h
  · exact absurd rfl h
  · rfl

/-- An initial part of ConfigureTX's writes that changes how a pin is routed has made all the pin writes, and no write of a pin's
latch or direction after them. -/
theorem txPinWrites_append_of_prefix_changes_funcsel {f : Fabric} {i p l o n : Nat} {c : ClkDiv} {ws : List FabricWrite}
    (hws : ws <+: txPinWrites i p ++ slotWrites i .tx o n ++ txLaneWrites i p l o c)
    (h : (f.applyAll ws).funcsel ≠ f.funcsel) :
    ∃ rest, ws = txPinWrites i p ++ rest ∧ ∀ w ∈ rest, w.drivesPin = false := by
  rw [List.append_assoc] at hws
  rcases List.prefix_or_prefix_of_prefix hws (List.prefix_append ..) with hpre | ⟨rest, rfl⟩
  · exact ⟨[], by rw [eq_txPinWrites_of_prefix_changes_funcsel hpre h, List.append_nil], nofun⟩
  · refine ⟨rest, rfl, fun w hw => ?_⟩
    rcases List.mem_append.1 (((List.prefix_append_right_inj _).1 hws).subset hw) with hslot | hlane
    · exact slotWrites_drivesPin hslot
    · exact txLaneWrites_drivesPin w hlane

/-- Settles O25: the pin writes set latch and direction before they route the pin, and no later write is to either. -/
theorem txTakeoverIsGlitchFree : Obligations.TxTakeoverIsGlitchFree := by
  refine ⟨fun d c s t p => configureTx_fabric, fun f i p l o n c ws hws hf h => ?_⟩
  obtain ⟨rest, rfl, hrest⟩ := txPinWrites_append_of_prefix_changes_funcsel hws fun e => hf (e ▸ h)
  obtain ⟨hout, hdir⟩ := Fabric.applyAll_pins rest (f.applyAll (txPinWrites i p)) hrest
  rw [Fabric.applyAll_append, hout, hdir]
  exact ⟨Table.get_set_self .., Table.get_set_self ..⟩

end Sys2Proof.Machine
end
